-- ==== Sys2Proof/Word.lean ====
section
/-! DEFINITION. The widths of spec/10_state.md and spec/30_encoding.md, as names for bit vectors. Bit 0 is the
least significant bit of every value (00_scope.md R9). -/

namespace Sys2Proof

/-- An 8-bit value: a general register, a memory byte, DT, the field NN (R20, R29, R31, R71). -/
abbrev Byte := BitVec 8

/-- A 16-bit value: an instruction word, I, the program counter, a stack entry (R22, R23, R28, R70). -/
abbrev Word := BitVec 16

/-- A 4-bit field: X, Y (register indices, 0 to 15 by their width) or N (R71, R73). -/
abbrev Nibble := BitVec 4

/-- The 12-bit field NNN (R71). -/
abbrev Addr12 := BitVec 12

/-- A register index (R20: "index must be in [0,15]" holds by the width of the nibble). -/
abbrev RegIdx := Nibble

/-- The index of VF, the register that flags are written to (R21). -/
def VF : RegIdx := 0xF

end Sys2Proof
end

