-- ==== Sys2Proof/Syntax.lean ====
section
/-! DEFINITION. The instructions: one constructor per row of spec/opcode_table.json, in the table's order
(30_encoding.md R76). A field is a bit vector of the width the encoding gives it, so no field can be out of range. The
mnemonics in the comments are the table's. -/

namespace Sys2Proof

/-- The 34 instructions (R76). Rows 5XY0 and 9XY0 carry their low nibble `n`, which the hardware ignores (R83), so that
no bit of an encoding is lost by decoding. -/
inductive Instr where
  | cls                                   -- 00E0  CLS
  | ret                                   -- 00EE  RET
  | jp (nnn : Addr12)                     -- 1NNN  JP_nnn
  | call (nnn : Addr12)                   -- 2NNN  CALL_nnn
  | seImm (x : RegIdx) (nn : Byte)        -- 3XNN  SE_Vx__nn
  | sneImm (x : RegIdx) (nn : Byte)       -- 4XNN  SNE_Vx__nn
  | seReg (x y : RegIdx) (n : Nibble)     -- 5XYN  SE_Vx__Vy
  | ldImm (x : RegIdx) (nn : Byte)        -- 6XNN  LD_Vx__nn
  | addImm (x : RegIdx) (nn : Byte)       -- 7XNN  ADD_Vx__nn
  | ldReg (x y : RegIdx)                  -- 8XY0  LD_Vx__Vy
  | orReg (x y : RegIdx)                  -- 8XY1  OR_Vx__Vy
  | andReg (x y : RegIdx)                 -- 8XY2  AND_Vx__Vy
  | xorReg (x y : RegIdx)                 -- 8XY3  XOR_Vx__Vy
  | addReg (x y : RegIdx)                 -- 8XY4  ADD_Vx__Vy
  | subReg (x y : RegIdx)                 -- 8XY5  SUB_Vx__Vy
  | shr (x y : RegIdx)                    -- 8XY6  SHR_Vx__Vy
  | subn (x y : RegIdx)                   -- 8XY7  SUBN_Vx__Vy
  | shl (x y : RegIdx)                    -- 8XYE  SHL_Vx__Vy
  | sneReg (x y : RegIdx) (n : Nibble)    -- 9XYN  SNE_Vx__Vy
  | ldI (nnn : Addr12)                    -- ANNN  LD_I__nnn
  | jpV0 (nnn : Addr12)                   -- BNNN  JP_V0__nnn
  | rnd (x : RegIdx) (nn : Byte)          -- CXNN  RND_Vx__nn
  | drw (x y : RegIdx) (n : Nibble)       -- DXYN  DRW_Vx__Vy__n
  | skp (x : RegIdx)                      -- EX9E  SKP_Vx
  | sknp (x : RegIdx)                     -- EXA1  SKNP_Vx
  | ldVxDT (x : RegIdx)                   -- FX07  LD_Vx__DT
  | ldVxK (x : RegIdx)                    -- FX0A  LD_Vx__K
  | ldDTVx (x : RegIdx)                   -- FX15  LD_DT__Vx
  | ldSTVx (x : RegIdx)                   -- FX18  LD_ST__Vx
  | addI (x : RegIdx)                     -- FX1E  ADD_I__Vx
  | ldF (x : RegIdx)                      -- FX29  LD_F__Vx
  | ldB (x : RegIdx)                      -- FX33  LD_B__Vx
  | ldMemVx (x : RegIdx)                  -- FX55  LD__I___Vx
  | ldVxMem (x : RegIdx)                  -- FX65  LD_Vx___I
  deriving DecidableEq, Repr

end Sys2Proof
end

