-- ==== Sys2Proof/Config.lean ====
section
/-! DEFINITION. What the spec leaves to the host or to an implementation, as constants with no body: nothing in
Lean can evaluate one or prove a value of one. Two groups: the two toggles that the host must supply at Reset and for
which the spec gives no default (00_scope.md R8, decision D31), and the free inputs of Steps and Updates
(00_scope.md R14), each a function of how many times the environment has been asked before. -/

namespace Sys2Proof.Config

/-- LEGACY_SHIFT as supplied with the Reset that `State.reset` stands for. DESIGN CHOICE, safe (log 1). -/
opaque legacyShift : Bool

/-- WRAP_EDGES as supplied with the Reset that `State.reset` stands for. DESIGN CHOICE, safe (log 1). -/
opaque wrapEdges : Bool

/-- The set of keys held, as the key-state provider answers at a poll: bit k is key k. No law relates it to
`keysNew` or to the answer of another poll (60_exceptions.md R233). DESIGN CHOICE, safe (log 8). -/
opaque keysHeld : Nat → BitVec 16

/-- The set of keys newly pressed since the last poll, as the provider answers (R233). DESIGN CHOICE, safe (log 8). -/
opaque keysNew : Nat → BitVec 16

/-- The byte that CXNN draws: any value, under no law (43_load_index_memory.md R153). DESIGN CHOICE, safe (log 8). -/
opaque drawByte : Nat → Byte

/-- Which of several newly pressed keys FX0A takes (45_timer_key_sound.md R193). DESIGN CHOICE, safe (log 9). -/
opaque keyPick : Nat → Nat

/-- Numerator of the elapsed time an Update reports. DESIGN CHOICE, safe (log 10). -/
opaque elapsedNum : Nat → Nat

/-- One less than the denominator of the elapsed time an Update reports. DESIGN CHOICE, safe (log 10). -/
opaque elapsedDen : Nat → Nat

end Sys2Proof.Config
end

