-- ==== Sys2Proof/Machine/Params.lean ====
section
/-! DEFINITION. The parameters of 00_scope.md R8 as the machine of `State.reset` has them: the defaults where the
spec gives one, a bodiless constant of Config where it gives none. Every one of them is also a field of State, so a
statement about all states holds for every value. -/

namespace Sys2Proof.Machine

/-- LEGACY_SHIFT at `State.reset`: no default (R8, D31). DESIGN CHOICE, safe (log 1). -/
def defaultLegacyShift : Bool := Config.legacyShift
/-- WRAP_EDGES at `State.reset`: no default (R8, D31). DESIGN CHOICE, safe (log 1). -/
def defaultWrapEdges : Bool := Config.wrapEdges
/-- CPU_HZ: "default 500 Hz" (R8). -/
def defaultCpuHz : Nat := 500
/-- DISPLAY_WIDTH: default 64 (R8). DESIGN CHOICE for `State.reset`, unsafe (log 27). -/
def defaultWidth : Nat := 64
/-- DISPLAY_HEIGHT: default 32 (R8). DESIGN CHOICE for `State.reset`, unsafe (log 27). -/
def defaultHeight : Nat := 32
/-- STACK_LIMIT: default none (R8, 90_conflicts.md C1). -/
def defaultStackLimit : Option Nat := none

/-- FONT: the customary table that R33 prints as the default. PRESUMED, unsafe (log 3). -/
def defaultFont : Vector Byte 80 :=
  #v[0xF0, 0x90, 0x90, 0x90, 0xF0,  0x20, 0x60, 0x20, 0x20, 0x70,   -- 0, 1
     0xF0, 0x10, 0xF0, 0x80, 0xF0,  0xF0, 0x10, 0xF0, 0x10, 0xF0,   -- 2, 3
     0x90, 0x90, 0xF0, 0x10, 0x10,  0xF0, 0x80, 0xF0, 0x10, 0xF0,   -- 4, 5
     0xF0, 0x80, 0xF0, 0x90, 0xF0,  0xF0, 0x10, 0x20, 0x40, 0x40,   -- 6, 7
     0xF0, 0x90, 0xF0, 0x90, 0xF0,  0xF0, 0x90, 0xF0, 0x10, 0xF0,   -- 8, 9
     0xF0, 0x90, 0xF0, 0x90, 0x90,  0xE0, 0x90, 0xE0, 0x90, 0xE0,   -- A, B
     0xF0, 0x80, 0x80, 0x80, 0xF0,  0xE0, 0x90, 0x90, 0x90, 0xE0,   -- C, D
     0xF0, 0x80, 0xF0, 0x80, 0xF0,  0xF0, 0x80, 0xF0, 0x80, 0x80]   -- E, F

/-- MEM_SIZE (R7). -/
def memSize : Nat := 4096
/-- PROGRAM_START (R7). -/
def programStart : Nat := 0x200
/-- FONT_BASE (R7). -/
def fontBase : Nat := 0
/-- GLYPH_BYTES (R7). -/
def glyphBytes : Nat := 5
/-- DELAY_HZ (R7). -/
def delayHz : Nat := 60
/-- The room for a ROM: `memSize - programStart` (R8, R252). -/
def romRoom : Nat := 3584

end Sys2Proof.Machine
end

