-- ==== Sys2Proof/Machine/Memory.lean ====
section
/-! DEFINITION. The memory image (10_state.md R29, 20_memory.md R50 to R62): 4096 bytes held as a sparse list of cells
in one canonical form, over the image that Reset writes before the ROM (font, then zeros). -/

namespace Sys2Proof.Machine

/-- The memory image. `font` is the machine's FONT table, fixed when it is built (R33, R254); `cells` lists, by
strictly rising address, the bytes that differ from `Memory.background`. -/
structure Memory where
  font  : Vector Byte 80
  cells : List Host.Cell
  deriving DecidableEq, Repr

/-- What an unlisted address reads as: the reset contents with no ROM (R37): FONT at 0x000 to 0x04F, zero above. -/
def Memory.background (font : Vector Byte 80) (a : Nat) : Byte :=
  if h : a < 80 then font[a] else 0

/-- The byte listed for an address. -/
def findCell (a : Nat) : List Host.Cell → Option Byte
  | [] => none
  | (k, b) :: rest => if a = k then some b else findCell a rest

/-- Lists a byte for an address, in place. -/
def putCell (a : Nat) (b : Byte) : List Host.Cell → List Host.Cell
  | [] => [(a, b)]
  | (k, c) :: rest =>
    if a < k then (a, b) :: (k, c) :: rest
    else if a = k then (a, b) :: rest
    else (k, c) :: putCell a b rest

/-- Unlists an address. -/
def dropCell (a : Nat) (cells : List Host.Cell) : List Host.Cell := cells.filter (fun c => c.1 != a)

/-- `MemRead(addr, 1)`: the byte at `addr mod 4096` (R52). -/
def Memory.read (m : Memory) (addr : Nat) : Byte :=
  (findCell (addr % memSize) m.cells).getD (Memory.background m.font (addr % memSize))

/-- `MemWrite(addr, 1, v)`: sets the byte at `addr mod 4096` (R53). Writing the background byte unlists the address. -/
def Memory.write (m : Memory) (addr : Nat) (v : Byte) : Memory :=
  if v = Memory.background m.font (addr % memSize) then { m with cells := dropCell (addr % memSize) m.cells }
  else { m with cells := putCell (addr % memSize) v m.cells }

/-- `MemRead(addr, n)`: n bytes in ascending order, each address reduced mod 4096 (R52, R62). -/
def Memory.readBytes (m : Memory) (addr : Nat) : Nat → List Byte
  | 0 => []
  | n + 1 => m.read addr :: m.readBytes (addr + 1) n

/-- `MemWrite(addr, n, v)`: the single-byte writes in ascending order (R53, R62). -/
def Memory.writeBytes (m : Memory) (addr : Nat) : List Byte → Memory
  | [] => m
  | b :: rest => (m.write addr b).writeBytes (addr + 1) rest

/-- The canonical form: addresses strictly rising and below 4096, no cell equal to the background. -/
abbrev Memory.wf (m : Memory) : Prop :=
  m.cells.Pairwise (fun p q => p.1 < q.1) ∧
    ∀ c ∈ m.cells, c.1 < memSize ∧ c.2 ≠ Memory.background m.font c.1

end Sys2Proof.Machine
end

