-- ==== Sys2Proof/Machine/State.lean ====
section
/-! DEFINITION. The machine's state (10_state.md R39), the fatal conditions and output events (60_exceptions.md), the
reasons a step can stop, and the state after reset (R37). -/

namespace Sys2Proof.Machine

/-- The fatal conditions of R210, each with the information it records. `fa` is the fetch address of the instruction
that raised it. -/
inductive Condition where
  /-- The fetched word matches no row of the opcode map (R211). The word stands for its hex text (R75). -/
  | unknownOpcode (op fa : Word)
  /-- 00EE with an empty call stack (R212). -/
  | stackUnderflow (fa : Word)
  /-- 2NNN with a full call stack, only under a numeric stack limit (R213). -/
  | stackOverflow (fa : Word)
  deriving DecidableEq, Repr

/-- The output events to the host (R232 to R236). -/
inductive Event where
  /-- The display sink's "clear all" (R234). -/
  | displayClear
  /-- The display sink's "set pixel (x,y) to on/off" (R234). -/
  | displaySet (x y : Nat) (value : Bool)
  /-- The audio sink's tone, its duration an exact number of seconds (R235). -/
  | playTone (seconds : Rat)
  /-- The fault report (R236). -/
  | fault (c : Condition)
  deriving DecidableEq, Repr

/-- The whole state. The fields down to `stackLimit` are the spec's (R39, and the build parameters of R254); the rest
are the model's own, for the loop of an Update and for the inputs and outputs of R14. -/
structure State where
  /-- V0 to VF (R20). -/
  v : Vector Byte 16
  /-- The address register I, a full 16 bits (R22). -/
  i : Word
  /-- The program counter (R23, R24). -/
  pc : Word
  /-- The call stack, top entry first (R28). -/
  stack : List Word
  /-- The memory image (R29). -/
  mem : Memory
  /-- The display surface: row y, column x; true is on (R30, R170). -/
  display : List (List Bool)
  /-- The delay timer DT (R31). -/
  dt : Byte
  /-- LEGACY_SHIFT (R32, R122). -/
  legacyShift : Bool
  /-- WRAP_EDGES (R32, R178). -/
  wrapEdges : Bool
  /-- CPU_HZ, ticks per second (R32). -/
  cpuHz : Nat
  /-- The instruction clock's carried remainder, in seconds (R34, R223). -/
  accCpu : Rat
  /-- The delay-timer clock's carried remainder, in seconds (R34, R223). -/
  accDelay : Rat
  /-- The halt status (R35). -/
  halted : Option Condition
  /-- DISPLAY_WIDTH (R8, R254). -/
  width : Nat
  /-- DISPLAY_HEIGHT (R8, R254). -/
  height : Nat
  /-- STACK_LIMIT (R8, R254). -/
  stackLimit : Option Nat
  /-- The model's own: how many Steps of the current Update are still to run (R225). -/
  dueSteps : Nat
  /-- The model's own: this Step's answers of "is key K currently held" (R107, R233). -/
  keysHeld : BitVec 16
  /-- The model's own: this Step's answers of "was key K newly pressed" (R107, R233). -/
  keysNew : BitVec 16
  /-- The model's own: this Step's free byte (R100, R153). -/
  rnd : Byte
  /-- The model's own: this Step's free choice among newly pressed keys (R193). -/
  keyPick : Nat
  /-- The model's own: how many times the environment has been asked for inputs. -/
  inputCount : Nat
  /-- The model's own: the output events, oldest first (R232). -/
  trace : List Event
  deriving DecidableEq, Repr

/-- Why a step stops. -/
inductive Fault where
  /-- Raised by `step` on a machine that a fatal condition has halted: "it has no successor state: the machine is
  stopped until reset" (40_step.md R106). No instruction raises it. Safe: nothing runs where the hardware runs nothing. -/
  | halted (c : Condition)
  deriving DecidableEq, Repr

/-- What has no meaning in the model. -/
inductive Refusal where
  /-- Answered by `exec` for an instruction that has no meaning yet. Safe. -/
  | notModelled (mnemonic : String)
  /-- Answered by `State.hostReset` and `State.hostUpdate` in the middle of an Update (R256, R105). Safe: outside the
  interface. -/
  | insideUpdate
  /-- Answered by `State.hostBuild` and `State.hostReset` for a surface with W or H < 1 (R8, 93_implementation_defined.md
  U14). Safe: outside the interface. -/
  | surfaceEmpty
  /-- Answered by `State.hostBuild` and `State.hostReset` for a stack limit of 0 (R8: none or a positive integer). Safe:
  outside the interface. -/
  | stackLimitZero
  /-- Answered by `State.hostReset` for a ROM of more than 3584 bytes (R252). Safe: outside the interface. -/
  | romTooLong
  /-- Answered by `State.hostReset` for CPU_HZ = 0 (R250 requires hz >= 1). Safe: outside the interface. -/
  | clockNotPositive
  /-- Answered by `State.hostUpdate` for a negative elapsed time (R225). Safe: outside the interface. -/
  | negativeDelta
  deriving DecidableEq, Repr

/-- Every pixel off (R37). -/
def blankDisplay (width height : Nat) : List (List Bool) := List.replicate height (List.replicate width false)

/-- The machine right after Reset (R37, R250) with an empty ROM: a program is put in by `State.hostReset` (log 2). The
values of V and the display (logs 4, 5), of the accumulators and the halt status (log 6) are the spec's own decisions;
those of the fields that are the model's own are DESIGN CHOICEs (logs 2, 14, 29). -/
def State.reset : State where
  v := Vector.replicate 16 0
  i := 0
  pc := 0x200
  stack := []
  mem := { font := defaultFont, cells := [] }
  display := blankDisplay defaultWidth defaultHeight
  dt := 0
  legacyShift := defaultLegacyShift
  wrapEdges := defaultWrapEdges
  cpuHz := defaultCpuHz
  accCpu := 0
  accDelay := 0
  halted := none
  width := defaultWidth
  height := defaultHeight
  stackLimit := defaultStackLimit
  dueSteps := 0
  keysHeld := 0
  keysNew := 0
  rnd := 0
  keyPick := 0
  inputCount := 0
  trace := []

end Sys2Proof.Machine
end

