-- ==== Sys2Proof/Machine/Ops.lean ====
section
/-! DEFINITION. The named operations over the state: registers, program counter, call stack, memory, display, output
events, raising a fatal condition and Reset (the only way out of one), the inputs of a Step, the fetch, and the Timer
Subsystem's arithmetic. Every meaning is written with these. -/

namespace Sys2Proof.Machine

/-- The outcome of a step or of a meaning. -/
abbrev Result := Host.Outcome State Fault Refusal

/-! ### Registers -/

/-- `V[x]` (R20). -/
def State.readV (s : State) (x : RegIdx) : Byte := s.v[x.toNat]'x.isLt

/-- `V[x] <- b` (R20: a write to one register never changes another). -/
def State.setV (s : State) (x : RegIdx) (b : Byte) : State := { s with v := s.v.set x.toNat b x.isLt }

/-- `I <- w`, never masked to 12 bits (R22). -/
def State.setI (s : State) (w : Word) : State := { s with i := w }

/-- `DT <- b` (R31). -/
def State.setDt (s : State) (b : Byte) : State := { s with dt := b }

/-- `pc <- target`: stores `target mod 4096` (R24). -/
def State.setPc (s : State) (target : Nat) : State := { s with pc := BitVec.ofNat 16 (target % memSize) }

/-- The pre-advance `pc <- pc + 2` (R102). -/
def State.preAdvance (s : State) : State := s.setPc (s.pc.toNat + 2)

/-- `Skip()`: `pc <- pc + 2` on the pre-advanced `pc` (R104). -/
def State.skip (s : State) : State := s.setPc (s.pc.toNat + 2)

/-- `pc <- pc - 2`, the rewind of FX0A, stored mod 4096 (R24, R193). -/
def State.rewind (s : State) : State := s.setPc (s.pc - 2).toNat

/-- Skips when the condition holds (R138). -/
def State.skipIf (s : State) (cond : Bool) : State := if cond then s.skip else s

/-- The fetch address `fa` of the instruction under execution: `(pc - 2) mod 4096` of the pre-advanced `pc` (R103). -/
def State.fetchAddress (s : State) : Word := BitVec.ofNat 16 ((s.pc - 2).toNat % memSize)

/-! ### Call stack -/

/-- `Push(v)`; no answer when the stack limit is a number and the depth equals it (R26). -/
def State.push (s : State) (ret : Word) : Option State :=
  if s.stackLimit = some s.stack.length then none else some { s with stack := ret :: s.stack }

/-- `Pop()`; no answer when the stack is empty (R27). -/
def State.pop (s : State) : Option (Word × State) :=
  match s.stack with
  | [] => none
  | ret :: rest => some (ret, { s with stack := rest })

/-! ### Memory and display -/

/-- Replaces the memory image by one that an instruction has written (R57: only FX33 and FX55 do). -/
def State.setMem (s : State) (m : Memory) : State := { s with mem := m }

/-- `D[x,y]` (R30); off outside the surface. -/
def pixelAt (d : List (List Bool)) (x y : Nat) : Bool := (d.getD y []).getD x false

/-- `D[x,y] <- D[x,y] ^ 1` (R172). -/
def flipPixel (d : List (List Bool)) (x y : Nat) : List (List Bool) :=
  d.modify y (fun row => row.modify x (fun b => !b))

/-- Replaces the display surface (R30: only 00E0 and DXYN do). -/
def State.setDisplay (s : State) (d : List (List Bool)) : State := { s with display := d }

/-! ### Output events -/

/-- `emit`: appends events to the output trace in the order they are emitted (R232). -/
def State.emit (s : State) (es : List Event) : State := { s with trace := s.trace ++ es }

/-! ### Fatal conditions and Reset -/

/-- `raise C(info)`: `halted <- C(info)`, `emit Fault(C, info)`, the Step ends (R215); the loop of the current Update
is left, so its remaining Steps do not run (R218, R225). Nothing else changes: `pc` keeps the pre-advanced value (R217). -/
def State.raise (s : State) (c : Condition) : State :=
  { s with halted := some c, dueSteps := 0, trace := s.trace ++ [.fault c] }

/-- The numeric code of a condition (R210). -/
def Condition.code : Condition → Nat
  | .unknownOpcode _ _ => 1
  | .stackUnderflow _ => 2
  | .stackOverflow _ => 3

/-- The memory image after Reset: cleared, font written, ROM copied from 0x200 (R250, R252, R253). -/
def Memory.afterReset (m : Memory) (rom : List Byte) : Memory :=
  ({ font := m.font, cells := [] } : Memory).writeBytes programStart rom

/-- The state that Reset leaves (R250, R37): everything replaced but the parameters fixed when the machine is built
(R254). Reset is the only way out of a fatal condition (R216). It emits no event; the trace and the count of inputs
are the environment's and go on. -/
def State.afterReset (s : State) (rom : List Byte) (legacy wrap : Bool) (hz : Nat) : State :=
  { s with
    v := Vector.replicate 16 0, i := 0, pc := BitVec.ofNat 16 programStart, stack := []
    mem := s.mem.afterReset rom, display := blankDisplay s.width s.height, dt := 0
    legacyShift := legacy, wrapEdges := wrap, cpuHz := hz, accCpu := 0, accDelay := 0
    halted := none, dueSteps := 0 }

/-! ### The start of a Step -/

/-- The poll at the start of a Step: fresh key answers, a fresh free byte, a fresh free choice (R100, R107, R225).
The values are bodiless constants applied to the input count: DESIGN CHOICE, safe (logs 8, 9). -/
def State.pollInputs (s : State) : State :=
  { s with
    keysHeld := Config.keysHeld s.inputCount, keysNew := Config.keysNew s.inputCount
    rnd := Config.drawByte s.inputCount, keyPick := Config.keyPick s.inputCount
    inputCount := s.inputCount + 1 }

/-- One due Step of the current Update is taken (R225). -/
def State.takeDue (s : State) : State := { s with dueSteps := s.dueSteps - 1 }

/-- The instruction word at `[pc, pc + 1]`, high byte first, addresses mod 4096, any parity (R51, R54, R101). -/
def State.fetchWord (s : State) : Word := wordOfBytes (s.mem.read s.pc.toNat) (s.mem.read (s.pc.toNat + 1))

/-- The state in which the fetched instruction executes: a due Step taken, inputs polled, `pc` pre-advanced (R100). -/
def State.beginStep (s : State) : State := s.takeDue.pollInputs.preAdvance

/-- A fetched word that matches no row raises UnknownOpcode with the word and the address it was fetched from, the
`pc` the Step began with (R103, R211). -/
def State.unknownOpcode (s : State) : State := s.beginStep.raise (.unknownOpcode s.fetchWord s.pc)

/-! ### The Timer Subsystem -/

/-- Due ticks of a clock of frequency `f` after `delta` more seconds, and the remainder it keeps (R223, R224), in exact
rational arithmetic (D20; log 11). -/
def dueTicks (acc delta : Rat) (f : Nat) : Nat × Rat :=
  let total := acc + delta
  let n := (total * (f : Rat)).floor.toNat
  (n, total - (n : Rat) / (f : Rat))

/-- `DT <- max(DT - n, 0)` (R226). -/
def decrementDt (dt : Byte) (n : Nat) : Byte := BitVec.ofNat 8 (dt.toNat - n)

/-- Update(delta) up to its first Step: both clocks advance, the due decrements are applied to DT, and the due Steps
are counted (R225; decrements first, D19, log 12). -/
def State.beginUpdate (s : State) (delta : Rat) : State :=
  { s with
    dt := decrementDt s.dt (dueTicks s.accDelay delta delayHz).1
    accDelay := (dueTicks s.accDelay delta delayHz).2
    accCpu := (dueTicks s.accCpu delta s.cpuHz).2
    dueSteps := (dueTicks s.accCpu delta s.cpuHz).1 }

/-- The elapsed time the host reports at its `n`-th answer: any non-negative rational number of seconds, from bodiless
constants (R14, R225). DESIGN CHOICE, safe (log 10). -/
def hostDelta (n : Nat) : Rat := (Config.elapsedNum n : Rat) / ((Config.elapsedDen n : Rat) + 1)

/-- The host's next Update begins (R225, R228). -/
def State.nextUpdate (s : State) : State :=
  { s with inputCount := s.inputCount + 1 }.beginUpdate (hostDelta s.inputCount)

end Sys2Proof.Machine
end

