-- ==== Sys2Proof/Machine/Operands.lean ====
section
/-! DEFINITION. The operand forms: the address of a memory access, the blocks FX33, FX55 and FX65 move, the source of a
shift, key codes, and the pixels of a sprite. -/

namespace Sys2Proof.Machine

/-- The address of byte k of an access through I; every memory operation reduces it mod 4096 (R62, R159). -/
def State.effectiveAddress (s : State) (k : Nat) : Nat := s.i.toNat + k

/-- The register a shift reads: Y in the legacy form, X in the modern form (R117, R119, R122). -/
def State.shiftSource (s : State) (x y : RegIdx) : RegIdx := if s.legacyShift then y else x

/-- The three decimal digits of a byte, hundreds first, one byte each (R154). -/
def bcdDigits (b : Byte) : List Byte :=
  [BitVec.ofNat 8 (b.toNat / 100), BitVec.ofNat 8 (b.toNat / 10 % 10), BitVec.ofNat 8 (b.toNat % 10)]

/-- The memory after `MemWrite(I + k, 1, V[k])` for k in 0 .. n-1, ascending (R155). -/
def State.dumpRegs (s : State) : Nat → Memory
  | 0 => s.mem
  | k + 1 => (s.dumpRegs k).write (s.effectiveAddress k) (s.readV (BitVec.ofNat 4 k))

/-- The state after `V[k] <- MemRead(I + k, 1)` for k in 0 .. n-1, ascending (R156). -/
def State.loadRegs (s : State) : Nat → State
  | 0 => s
  | k + 1 => (s.loadRegs k).setV (BitVec.ofNat 4 k) (s.mem.read (s.effectiveAddress k))

/-! ### Keys -/

/-- `keys.held(k)`; false for a code above 15 (R196). -/
def State.keyHeld (s : State) (code : Nat) : Bool := s.keysHeld.getLsbD code

/-- The codes of the keys newly pressed at this Step's poll, ascending (R193, R196). -/
def State.newKeys (s : State) : List Nat := (List.range 16).filter (fun k => s.keysNew.getLsbD k)

/-- The code FX0A takes: none when no key is newly pressed, else any member of the set, by the Step's free choice
(R193, D17; log 9). -/
def State.chosenKey (s : State) : Option Nat := s.newKeys[s.keyPick % s.newKeys.length]?

/-! ### Sprites -/

/-- Sprite row r: the byte at I + r (R172). -/
def State.spriteRow (s : State) (r : Nat) : Byte := s.mem.read (s.effectiveAddress r)

/-- Column c of a sprite row, most significant bit leftmost (R170, R172). -/
def spriteBit (row : Byte) (c : Nat) : Bool := row.getLsbD (7 - c)

/-- The pixel under column c, row r of a sprite whose origin registers hold (ox, oy): reduced modulo the surface under
the wrap policy (R173), nothing off the surface under the clip policy (R174). -/
def State.spriteTarget (s : State) (ox oy r c : Nat) : Option (Nat × Nat) :=
  if s.wrapEdges then some ((ox % s.width + c) % s.width, (oy % s.height + r) % s.height)
  else if ox + c < s.width ∧ oy + r < s.height then some (ox + c, oy + r)
  else none

/-- The (row, column) pairs of an n-row sprite in the visiting order of R172: rows ascending, columns left to right
(D13). -/
def spriteCells (n : Nat) : List (Nat × Nat) :=
  (List.range n).flatMap (fun r => (List.range 8).map (fun c => (r, c)))

end Sys2Proof.Machine
end

