-- ==== Sys2Proof/Machine/Flags.lean ====
section
/-! DEFINITION. The flag computations: every value that an instruction writes to VF as a flag (R21), and the order of the
flag write and the result write (R110). -/

namespace Sys2Proof.Machine

/-- A flag value: exactly 0x00 or 0x01 (R21). -/
def flagByte (b : Bool) : Byte := if b then 1 else 0

/-- Carry out of bit 7 of a sum (R115). -/
def addFlag (a b : Byte) : Byte := flagByte (decide (255 < a.toNat + b.toNat))

/-- 1 iff the minuend is strictly greater than the subtrahend (R116, R118, 90_conflicts.md C10). -/
def subFlag (minuend subtrahend : Byte) : Byte := flagByte (decide (subtrahend.toNat < minuend.toNat))

/-- The bit a right shift drops: bit 0 (R117). -/
def shrFlag (a : Byte) : Byte := a &&& 1

/-- The bit a left shift drops: bit 7 (R119). -/
def shlFlag (a : Byte) : Byte := (a &&& 0x80) >>> 7

/-- Carry out of bit 15 of I + V[x] (R158, 90_conflicts.md C9). -/
def indexFlag (i : Word) (a : Byte) : Byte := flagByte (decide (65535 < i.toNat + a.toNat))

/-- `V[0xF] <- flag`. -/
def State.setFlag (s : State) (flag : Byte) : State := s.setV VF flag

/-- The two writes of R110: `s1` puts the flag in VF, then `s2` puts in V[x] a result computed from the registers as `s1`
left them. The sequential reading is the spec's decision D10 (log 17). -/
def State.flagThenResult (s : State) (x : RegIdx) (flag : Byte) (result : State → Byte) : State :=
  (s.setFlag flag).setV x (result (s.setFlag flag))

end Sys2Proof.Machine
end

