-- ==== Sys2Proof/Machine/ArithLogic.lean ====
section
/-! DEFINITION. Arithmetic and logic (spec/41_arith_logic.md): 7XNN, 8XY0 to 8XY7, 8XYE. Each meaning starts from the
pre-advanced state and leaves `pc` alone. -/

namespace Sys2Proof.Machine

/-- 7XNN: `V[X] <- (V[X] + NN) mod 256`, no flag (R120). -/
def execAddImm (x : RegIdx) (nn : Byte) (s : State) : Result := .next (s.setV x (s.readV x + nn))

/-- 8XY0: `V[X] <- V[Y]` (R111; general knowledge, log 16). -/
def execLdReg (x y : RegIdx) (s : State) : Result := .next (s.setV x (s.readV y))

/-- 8XY1: `V[X] <- V[X] | V[Y]`, no flag (R112). -/
def execOrReg (x y : RegIdx) (s : State) : Result := .next (s.setV x (s.readV x ||| s.readV y))

/-- 8XY2: `V[X] <- V[X] & V[Y]`, no flag (R113). -/
def execAndReg (x y : RegIdx) (s : State) : Result := .next (s.setV x (s.readV x &&& s.readV y))

/-- 8XY3: `V[X] <- V[X] ^ V[Y]`, no flag (R114). -/
def execXorReg (x y : RegIdx) (s : State) : Result := .next (s.setV x (s.readV x ^^^ s.readV y))

/-- 8XY4: VF <- carry, then `V[X] <- (V[X] + V[Y]) mod 256` (R115, R110). -/
def execAddReg (x y : RegIdx) (s : State) : Result :=
  .next (s.flagThenResult x (addFlag (s.readV x) (s.readV y)) (fun t => t.readV x + t.readV y))

/-- 8XY5: VF <- `V[X] > V[Y]`, then `V[X] <- (V[X] - V[Y]) mod 256` (R116, R110). -/
def execSubReg (x y : RegIdx) (s : State) : Result :=
  .next (s.flagThenResult x (subFlag (s.readV x) (s.readV y)) (fun t => t.readV x - t.readV y))

/-- 8XY6: VF <- bit 0 of the source, then `V[X] <- source >> 1` (R117, R110). -/
def execShr (x y : RegIdx) (s : State) : Result :=
  .next (s.flagThenResult x (shrFlag (s.readV (s.shiftSource x y))) (fun t => t.readV (t.shiftSource x y) >>> 1))

/-- 8XY7: VF <- `V[Y] > V[X]`, then `V[X] <- (V[Y] - V[X]) mod 256` (R118, R110). -/
def execSubn (x y : RegIdx) (s : State) : Result :=
  .next (s.flagThenResult x (subFlag (s.readV y) (s.readV x)) (fun t => t.readV y - t.readV x))

/-- 8XYE: VF <- bit 7 of the source, then `V[X] <- (source << 1) mod 256` (R119, R110). -/
def execShl (x y : RegIdx) (s : State) : Result :=
  .next (s.flagThenResult x (shlFlag (s.readV (s.shiftSource x y))) (fun t => t.readV (t.shiftSource x y) <<< 1))

end Sys2Proof.Machine
end

