-- ==== Sys2Proof/Machine/ControlFlow.lean ====
section
/-! DEFINITION. Control transfer (spec/42_control_flow.md): skips, jumps, call, return. `pc` is already pre-advanced; every
write of it is mod 4096 (R24); no V register is written (R138). -/

namespace Sys2Proof.Machine

/-- 3XNN: skip if `V[X] = NN` (R130). -/
def execSeImm (x : RegIdx) (nn : Byte) (s : State) : Result := .next (s.skipIf (s.readV x == nn))

/-- 4XNN: skip if `V[X] != NN` (R131). -/
def execSneImm (x : RegIdx) (nn : Byte) (s : State) : Result := .next (s.skipIf (s.readV x != nn))

/-- 5XYN: skip if `V[X] = V[Y]`; the low nibble is ignored (R132, R83). -/
def execSeReg (x y : RegIdx) (s : State) : Result := .next (s.skipIf (s.readV x == s.readV y))

/-- 9XYN: skip if `V[X] != V[Y]`; the low nibble is ignored (R133, R83). -/
def execSneReg (x y : RegIdx) (s : State) : Result := .next (s.skipIf (s.readV x != s.readV y))

/-- 1NNN: `pc <- NNN` (R134). -/
def execJp (nnn : Addr12) (s : State) : Result := .next (s.setPc nnn.toNat)

/-- BNNN: `pc <- NNN + V[0]`, stored mod 4096 (R135). -/
def execJpV0 (nnn : Addr12) (s : State) : Result := .next (s.setPc (nnn.toNat + (s.readV 0).toNat))

/-- 2NNN: `Push(pc)`, then `pc <- NNN`; StackOverflow when a bounded stack is full, nothing pushed (R136, R213). -/
def execCall (nnn : Addr12) (s : State) : Result :=
  match s.push s.pc with
  | some t => .next (t.setPc nnn.toNat)
  | none => .next (s.raise (.stackOverflow s.fetchAddress))

/-- 00EE: `pc <- Pop()`; StackUnderflow when the stack is empty (R137, R212). -/
def execRet (s : State) : Result :=
  match s.pop with
  | some (ret, t) => .next (t.setPc ret.toNat)
  | none => .next (s.raise (.stackUnderflow s.fetchAddress))

end Sys2Proof.Machine
end

