-- ==== Sys2Proof/Machine/Display.lean ====
section
/-! DEFINITION. The display instructions (spec/44_display.md). -/

namespace Sys2Proof.Machine

/-- What a sprite draw has done so far: the surface, the cumulative collision (R175) and the events, in order (R176). -/
structure Draw where
  surface   : List (List Bool)
  collision : Bool
  events    : List Event
  deriving DecidableEq, Repr

/-- One sprite bit of 1 on an on-surface pixel: flip it, note a 1 to 0 transition, report the new value (R172, R176). -/
def Draw.flip (d : Draw) (px py : Nat) : Draw where
  surface := flipPixel d.surface px py
  collision := d.collision || pixelAt d.surface px py
  events := d.events ++ [.displaySet px py (!pixelAt d.surface px py)]

/-- The visit of one (row, column) pair of a sprite: nothing for a bit of 0 or a clipped pixel (R172). -/
def State.visitCell (s : State) (ox oy : Nat) (d : Draw) (cell : Nat × Nat) : Draw :=
  match s.spriteTarget ox oy cell.1 cell.2 with
  | some (px, py) => if spriteBit (s.spriteRow cell.1) cell.2 then d.flip px py else d
  | none => d

/-- The whole loop of R172 for an origin (ox, oy) and n rows. -/
def State.drawSprite (s : State) (ox oy n : Nat) : Draw :=
  (spriteCells n).foldl (s.visitCell ox oy) { surface := s.display, collision := false, events := [] }

/-- DXYN: draw by XOR; VF <- collision, written last; V[X] and V[Y] are read before anything is written (R172 to R176). -/
def execDrw (x y : RegIdx) (n : Nibble) (s : State) : Result :=
  .next (((s.setDisplay (s.drawSprite (s.readV x).toNat (s.readV y).toNat n.toNat).surface).emit
    (s.drawSprite (s.readV x).toNat (s.readV y).toNat n.toNat).events).setFlag
      (flagByte (s.drawSprite (s.readV x).toNat (s.readV y).toNat n.toNat).collision))

/-- 00E0: every pixel off, one DisplayClear event, VF untouched (R171). -/
def execCls (s : State) : Result := .next ((s.setDisplay (blankDisplay s.width s.height)).emit [.displayClear])

end Sys2Proof.Machine
end

