-- ==== Sys2Proof/Machine/LoadStore.lean ====
section
/-! DEFINITION. Loads, the random byte, the address register and memory (spec/43_load_index_memory.md). -/

namespace Sys2Proof.Machine

/-- 6XNN: `V[X] <- NN` (R150). -/
def execLdImm (x : RegIdx) (nn : Byte) (s : State) : Result := .next (s.setV x nn)

/-- ANNN: `I <- NNN`, zero-extended (R151, R73). -/
def execLdI (nnn : Addr12) (s : State) : Result := .next (s.setI (nnn.setWidth 16))

/-- CXNN: `V[X] <- rnd & NN`, with the Step's free byte (R152, R153). -/
def execRnd (x : RegIdx) (nn : Byte) (s : State) : Result := .next (s.setV x (s.rnd &&& nn))

/-- FX1E: `I <- (I + V[X]) mod 65536`, then VF <- carry out of bit 15; V[X] is read before VF is written (R158). -/
def execAddI (x : RegIdx) (s : State) : Result :=
  .next ((s.setI (s.i + (s.readV x).setWidth 16)).setFlag (indexFlag s.i (s.readV x)))

/-- FX29: `I <- FONT_BASE + V[X] * 5`, the whole byte multiplied (R157, D15). -/
def execLdF (x : RegIdx) (s : State) : Result :=
  .next (s.setI (BitVec.ofNat 16 (fontBase + (s.readV x).toNat * glyphBytes)))

/-- FX33: the decimal digits of V[X] to I, I+1, I+2; I unchanged (R154). -/
def execLdB (x : RegIdx) (s : State) : Result :=
  .next (s.setMem (s.mem.writeBytes (s.effectiveAddress 0) (bcdDigits (s.readV x))))

/-- FX55: V[0] to V[X] to memory from I; I unchanged (R155). -/
def execLdMemVx (x : RegIdx) (s : State) : Result := .next (s.setMem (s.dumpRegs (x.toNat + 1)))

/-- FX65: V[0] to V[X] from memory at I; I unchanged (R156). -/
def execLdVxMem (x : RegIdx) (s : State) : Result := .next (s.loadRegs (x.toNat + 1))

end Sys2Proof.Machine
end

