-- ==== Sys2Proof/Machine/TimerKey.lean ====
section
/-! DEFINITION. Delay timer, sound and keys (spec/45_timer_key_sound.md). The key answers are those polled for this Step. -/

namespace Sys2Proof.Machine

/-- FX07: `V[X] <- DT` (R190). -/
def execLdVxDT (x : RegIdx) (s : State) : Result := .next (s.setV x s.dt)

/-- FX15: `DT <- V[X]`; the delay-timer clock's remainder is not touched (R191). -/
def execLdDTVx (x : RegIdx) (s : State) : Result := .next (s.setDt (s.readV x))

/-- FX18: `emit PlayTone(V[X] / 60)`, an exact rational; no state changes, and V[X] = 0 emits too (R192, R235). -/
def execLdSTVx (x : RegIdx) (s : State) : Result :=
  .next (s.emit [.playTone (((s.readV x).toNat : Rat) / 60)])

/-- FX0A: with no key newly pressed, rewind `pc`; else V[X] gets the code of one (R193). -/
def execLdVxK (x : RegIdx) (s : State) : Result :=
  .next (match s.chosenKey with
    | some k => s.setV x (BitVec.ofNat 8 k)
    | none => s.rewind)

/-- EX9E: skip if the key whose code is V[X] is held (R194, R196). -/
def execSkp (x : RegIdx) (s : State) : Result := .next (s.skipIf (s.keyHeld (s.readV x).toNat))

/-- EXA1: skip if the key whose code is V[X] is not held; always for a code above 15 (R195, R196). -/
def execSknp (x : RegIdx) (s : State) : Result := .next (s.skipIf (!s.keyHeld (s.readV x).toNat))

end Sys2Proof.Machine
end

