-- ==== Sys2Proof/Machine/Cycle.lean ====
section
/-! DEFINITION. One Step of the CPU Core (40_step.md R100). -/

namespace Sys2Proof.Machine

/-- `Step(keys, rnd)`: fetch, pre-advance, decode, execute (R100); a word that matches no row raises UnknownOpcode
(R103). It is called with a Step due and `halted = none`. -/
def State.runStep (s : State) : Result :=
  match decode s.fetchWord with
  | .ok i => exec i s.beginStep
  | .error _ => .next s.unknownOpcode

/-- Stores a word where the next fetch reads it, high byte at `pc` (R51), makes a Step due, and lifts a halt, so that the
next step runs it (log 2). -/
def State.placeWord (s : State) (op : Word) : State :=
  { s with
    mem := (s.mem.write s.pc.toNat (hiByte op)).write (s.pc.toNat + 1) (loByte op)
    dueSteps := if s.dueSteps = 0 then 1 else s.dueSteps
    halted := none }

end Sys2Proof.Machine
end

