-- ==== Sys2Proof/Machine/Step.lean ====
section
/-! DEFINITION. One step of the machine: the CPU Core's next due Step, or, when none is due, the start of the host's next
Update (60_exceptions.md R225). -/

namespace Sys2Proof.Machine

/-- A halted machine has no successor (R106). With no Step due, the host's next Update begins (R225). Otherwise the CPU
Core runs one Step (R100). -/
def step (s : State) : Host.Outcome State Fault Refusal :=
  match s.halted with
  | some c => .fault (.halted c)
  | none => if s.dueSteps = 0 then .next s.nextUpdate else s.runStep

/-- `s` with a table word stored where the next fetch reads it, and a Step due. -/
def State.withFetchWord (s : State) (nbits w : Nat) : State := s.placeWord (BitVec.ofNat 16 (w % 2 ^ nbits))

end Sys2Proof.Machine
end

