-- ==== Sys2Proof/Machine/HostOps.lean ====
section
/-! DEFINITION. What the host may do to the machine as whole operations: build it with its fixed parameters (00_scope.md
R8, 70_reset_and_hazards.md R254), Reset (70_reset_and_hazards.md R250, R256) and Update (60_exceptions.md R225). -/

namespace Sys2Proof.Machine

/-- Why a launch is outside the interface: W or H < 1, a stack limit of 0 (R8), a ROM of more than 3584 bytes (R252), a
frequency of 0 (R250). Refusing is the treatment of 93_implementation_defined.md U14 (log 23). -/
def launchRefusal (width height : Nat) (stackLimit : Option Nat) (rom : List Byte) (hz : Nat) : Option Refusal :=
  if width = 0 ∨ height = 0 then some .surfaceEmpty
  else if stackLimit = some 0 then some .stackLimitZero
  else if romRoom < rom.length then some .romTooLong
  else if hz = 0 then some .clockNotPositive
  else none

/-- Reset(ROM, LEGACY_SHIFT, WRAP_EDGES, CPU_HZ), between Updates and never in the middle of one (R250, R256); a launch
outside the interface is refused. -/
def State.hostReset (s : State) (rom : List Byte) (legacy wrap : Bool) (hz : Nat) : Result :=
  if s.dueSteps ≠ 0 then .refused .insideUpdate
  else match launchRefusal s.width s.height s.stackLimit rom hz with
    | some r => .refused r
    | none => .next (s.afterReset rom legacy wrap hz)

/-- Building a machine: FONT, W, H and STACK_LIMIT are fixed here (R8, R254), and the first Reset follows (R250). -/
def State.hostBuild (font : Vector Byte 80) (width height : Nat) (stackLimit : Option Nat) (rom : List Byte)
    (legacy wrap : Bool) (hz : Nat) : Result :=
  { State.reset with
    mem := { font := font, cells := [] }, width := width, height := height
    stackLimit := stackLimit }.hostReset rom legacy wrap hz

/-- The loop of R225: up to n Steps, left as soon as the machine is halted. -/
def State.runDue (s : State) : Nat → Result
  | 0 => .next s
  | n + 1 =>
    if s.halted.isSome then .next s
    else match s.runStep with
      | .next t => t.runDue n
      | .fault f => .fault f
      | .refused r => .refused r

/-- Update(delta): nothing while halted; else the clocks and DT advance, then every due Step runs (R225, R216). A
negative delta, and an Update in the middle of another (R105), are outside the interface and refused. -/
def State.hostUpdate (s : State) (delta : Rat) : Result :=
  if s.dueSteps ≠ 0 then .refused .insideUpdate
  else if delta < 0 then .refused .negativeDelta
  else if s.halted.isSome then .next s
  else (s.beginUpdate delta).runDue (s.beginUpdate delta).dueSteps

end Sys2Proof.Machine
end

