-- ==== Sys2Proof/Safety.lean ====
section
/-! DEFINITION. What claims are stated in: what a step leaves unchanged, the invariant of a machine, and the picture a
display sink shows. -/

namespace Sys2Proof.Machine

/-! ### Frames -/

/-- `t` is `s` with `b` in V[x]: no other register and no other part of the state differs. -/
def WritesOnly (s t : State) (x : RegIdx) (b : Byte) : Prop :=
  t.readV x = b ∧ (∀ r, r ≠ x → t.readV r = s.readV r) ∧ t = { s with v := t.v }

/-- `t` is `s` with `b` in V[x] and then `f` in VF; when x is VF itself, the register ends as `b`. No other register and
no other part of the state differs. -/
def WritesResultAndFlag (s t : State) (x : RegIdx) (b f : Byte) : Prop :=
  t.readV x = b ∧ (x ≠ VF → t.readV VF = f) ∧ (∀ r, r ≠ x → r ≠ VF → t.readV r = s.readV r) ∧ t = { s with v := t.v }

/-- `s` with `pc <- target` and nothing else changed (R24: stored mod 4096). -/
def State.withPc (s : State) (target : Nat) : State := { s with pc := BitVec.ofNat 16 (target % 4096) }

/-- `s` stopped by a fatal condition, and nothing else changed: the halt status, the end of the current Update's loop and
the fault report (R215, R217, R236). -/
def State.stoppedBy (s : State) (c : Condition) : State :=
  { s with halted := some c, dueSteps := 0, trace := s.trace ++ [.fault c] }

/-- The words of one row of the opcode map: those that match it, and no others, decode to `instr` of their fields
(30_encoding.md R76). -/
def EncodedAs (mask pattern : Word) (instr : Word → Instr) : Prop :=
  ∀ w, w &&& mask = pattern ↔ decode w = .ok (instr w)

/-- The conventional end of a program: `pc` addresses a jump to itself (40_step.md R108; the convention is decision D30). -/
def State.AtSelfJump (s : State) : Prop := ∃ nnn : Addr12, decode s.fetchWord = .ok (.jp nnn) ∧ nnn.toNat = s.pc.toNat

/-! ### The invariant of a machine -/

/-- The program counter "must stay within [0, 4095]" (R24), and so must every stack entry (R28). -/
def State.AddressesInRange (s : State) : Prop := s.pc.toNat < memSize ∧ ∀ r ∈ s.stack, r.toNat < memSize

/-- A numeric stack limit is never exceeded (R26). -/
def State.StackWithinLimit (s : State) : Prop := ∀ n, s.stackLimit = some n → s.stack.length ≤ n

/-- The display surface is H rows of W pixels (R30). -/
def State.DisplayShaped (s : State) : Prop := s.display.length = s.height ∧ ∀ row ∈ s.display, row.length = s.width

/-- Each clock's remainder is a non-negative amount of time smaller than one tick interval (R34). -/
def State.ClocksInRange (s : State) : Prop :=
  0 ≤ s.accCpu ∧ s.accCpu * (s.cpuHz : Rat) < 1 ∧ 0 ≤ s.accDelay ∧ s.accDelay * (delayHz : Rat) < 1

/-- The parameters are ones the machine can be built and reset with: a positive frequency and surface, and a stack limit
that is none or positive (R8, R250). -/
def State.ParamsLegal (s : State) : Prop := 1 ≤ s.cpuHz ∧ 1 ≤ s.width ∧ 1 ≤ s.height ∧ s.stackLimit ≠ some 0

/-- A halted machine has no Step left to run (R216, R218). -/
def State.HaltedIdle (s : State) : Prop := s.halted.isSome = true → s.dueSteps = 0

/-- The invariant: what every state of a machine satisfies between steps. -/
def State.Inv (s : State) : Prop :=
  s.AddressesInRange ∧ s.StackWithinLimit ∧ s.mem.wf ∧ s.DisplayShaped ∧ s.ClocksInRange ∧ s.ParamsLegal ∧ s.HaltedIdle

/-! ### What a display sink shows -/

/-- The display sink's reaction to one event (R234): "set pixel (x,y) to on/off" or "clear all". -/
def showEvent (picture : List (List Bool)) : Event → List (List Bool)
  | .displayClear => picture.map (fun row => row.map (fun _ => false))
  | .displaySet x y value => picture.modify y (fun row => row.set x value)
  | .playTone _ => picture
  | .fault _ => picture

/-- The picture after a trace of events, from an all-off one (R234). -/
def showTrace (width height : Nat) (trace : List Event) : List (List Bool) :=
  trace.foldl showEvent (blankDisplay width height)

/-- The sink's picture is the display surface (R234: "Applying the events in order to an all-off picture reproduces `D`
exactly"). -/
def State.SinkShowsDisplay (s : State) : Prop := showTrace s.width s.height s.trace = s.display

/-! ### Sprites, in the spec's own arithmetic -/

/-- Column c of row r of a sprite with origin registers (ox, oy) has a 1 bit and lands on pixel (px, py): coordinates
modulo the surface under the wrap policy, plain under the clip policy (R172 to R174). -/
abbrev State.Covers (s : State) (ox oy r c px py : Nat) : Prop :=
  (s.mem.read (s.i.toNat + r)).getLsbD (7 - c) = true ∧
    (if s.wrapEdges then (ox + c) % s.width = px ∧ (oy + r) % s.height = py else ox + c = px ∧ oy + r = py)

/-- How many cells of an n-row sprite land on pixel (px, py): 0 or 1, unless a small surface makes a wrapped sprite meet
itself (R172). -/
def State.coverCount (s : State) (ox oy n px py : Nat) : Nat :=
  ((List.range n).map (fun r => ((List.range 8).filter (fun c => decide (s.Covers ox oy r c px py))).length)).sum

/-- The pixels on the surface under 1 bits of an n-row sprite, rows ascending and columns left to right (R172, R176). -/
def State.coveredPixels (s : State) (ox oy n : Nat) : List (Nat × Nat) :=
  (List.range n).flatMap (fun r => (List.range 8).filterMap (fun c =>
    if (s.mem.read (s.i.toNat + r)).getLsbD (7 - c) then
      if s.wrapEdges then some ((ox + c) % s.width, (oy + r) % s.height)
      else if ox + c < s.width ∧ oy + r < s.height then some (ox + c, oy + r) else none
    else none))

/-- The DisplaySet events of an n-row sprite: one per covered pixel, in visiting order, each with the pixel's new value:
the old display's, flipped once per visit of the pixel up to and including this one (R172, R176). -/
def State.drawEvents (s : State) (ox oy n : Nat) : List Event :=
  (s.coveredPixels ox oy n).mapIdx (fun k p =>
    .displaySet p.1 p.2
      (pixelAt s.display p.1 p.2 ^^ decide (((s.coveredPixels ox oy n).take (k + 1)).count p % 2 = 1)))

end Sys2Proof.Machine
end

