-- ==== Sys2Proof/WellFormed.lean ====
section
/-! DEFINITION. Which instruction terms are the spec's own spelling of an instruction. The types of `Instr` already keep
every field inside the bits its encoding gives it; what is left to check is the one field the hardware ignores. -/

namespace Sys2Proof

/-- An instruction as an assembler writes it: rows 5XY0 and 9XY0 have N = 0 (30_encoding.md R76: "The canonical encoding
of rows 7 and 19 has `N = 0`"; R83). This is NOT a condition for running: 5XYN and 9XYN with N other than 0 decode and
execute like the canonical form (R83), and the model's statements cover them. -/
def Instr.wellFormed : Instr → Bool
  | .seReg _ _ n | .sneReg _ _ n => n == 0
  | .cls | .ret | .jp _ | .call _ | .seImm _ _ | .sneImm _ _ | .ldImm _ _ | .addImm _ _ | .ldReg _ _ | .orReg _ _
  | .andReg _ _ | .xorReg _ _ | .addReg _ _ | .subReg _ _ | .shr _ _ | .subn _ _ | .shl _ _ | .ldI _ | .jpV0 _
  | .rnd _ _ | .drw _ _ _ | .skp _ | .sknp _ | .ldVxDT _ | .ldVxK _ | .ldDTVx _ | .ldSTVx _ | .addI _ | .ldF _
  | .ldB _ | .ldMemVx _ | .ldVxMem _ => true

end Sys2Proof
end

