-- ==== Sys2Proof/Certificates/Slice0/Obligations.lean ====
section
/-! DEFINITION. The statements for the provers. Each docstring names the rule or section of spec/ it formalises; where it
rests on a decision of the spec (92_eei_decisions.md) or on a choice of the model, it says so and names the log entry. -/

open Sys2Proof Sys2Proof.Machine

/-! ### Encoding (spec/30_encoding.md) -/

/-- Decode and encode agree: every instruction, with every field at every value its encoding admits, is what the decoder
reads from its encoded word; and every word that decodes is the encoding of what it decodes to, no bit dropped (the ignored
nibble of 5XYN and 9XYN is kept in the instruction). Rests on the spec's choice of sub-opcodes and masks (D6 to D9, logs
15, 16, 31). -/
def Obligations.DecodeAndEncodeAgree : Prop :=
  (∀ i : Instr, decode (encode i) = .ok i) ∧ (∀ (w : Word) (i : Instr), decode w = .ok i → encode i = w)

/-- A word decodes iff it matches one of the 34 rows of the opcode map, and to an instruction of a row it matches; every
other word is rejected as an unknown opcode; "The 34 match sets are pairwise disjoint" (R76, R80 to R84; the masks are
decisions D6, D7, D8, logs 15, 31; the numbers 8XY0 to 8XY5 and 8XY7 are general knowledge, R77, D9, log 16). -/
def Obligations.DecodeAcceptsExactlyTheOpcodeMap : Prop :=
  (opcodeTable.length = 34 ∧ opcodeTable.Pairwise (fun a b => ∀ w, a.matchesWord w → ¬ b.matchesWord w)) ∧
  ∀ w : Word,
    (∀ i, decode w = .ok i → i.row ∈ opcodeTable ∧ i.row.matchesWord w) ∧
    ((∃ i, decode w = .ok i) ↔ ∃ r ∈ opcodeTable, r.matchesWord w) ∧
    ((¬ ∃ r ∈ opcodeTable, r.matchesWord w) → decode w = .error (.unknownOpcode w))

/-- Every instruction is exactly two bytes, the first the high byte; the word fetched is `MemRead(pc, 1) ++
MemRead(pc + 1, 1)` (R70). -/
def Obligations.InstructionIsTwoBigEndianBytes : Prop :=
  ∀ (hi lo : Byte) (rest : List Byte) (s : State),
    (wordOfBytes hi lo).toNat = 256 * hi.toNat + lo.toNat ∧
    (∀ i, decode (wordOfBytes hi lo) = .ok i → decodeBytes (hi :: lo :: rest) = .ok (i, rest)) ∧
    (∀ e, decode (wordOfBytes hi lo) = .error e → decodeBytes (hi :: lo :: rest) = .error e) ∧
    s.fetchWord = wordOfBytes (s.mem.read s.pc.toNat) (s.mem.read (s.pc.toNat + 1))

/-- The fields F, X, Y, N, NN, NNN and the four hexadecimal digits of every word, and how they overlap (R71). -/
def Obligations.FieldsOfTheInstructionWord : Prop :=
  ∀ w : Word,
    (fieldF w).toNat = w.toNat / 4096 ∧ (fieldX w).toNat = w.toNat / 256 % 16 ∧ (fieldY w).toNat = w.toNat / 16 % 16 ∧
    (fieldN w).toNat = w.toNat % 16 ∧ (fieldNN w).toNat = w.toNat % 256 ∧ (fieldNNN w).toNat = w.toNat % 4096 ∧
    fieldNN w = fieldY w ++ fieldN w ∧ fieldNNN w = fieldX w ++ fieldNN w ∧ w = fieldF w ++ fieldNNN w ∧
    fieldHex w = [fieldF w, fieldX w, fieldY w, fieldN w].map (fun d =>
      ['0', '1', '2', '3', '4', '5', '6', '7', '8', '9', 'A', 'B', 'C', 'D', 'E', 'F'].getD d.toNat '0')

/-- Words of families 0, 1, 3, 8, B, D, E and F, written out from the encodings of R76 and the vectors of
95_test_vectors.md, decode to the instructions they stand for, and 01E0 to none (that 01E0 is refused is decision D6, log
31; that 8124 is the addition is general knowledge, D9, log 16). -/
def Obligations.SampleWordsDecode : Prop :=
  decode 0b0000_0000_1110_0000 = .ok .cls ∧ decode 0b0001_1100_0010_0100 = .ok (.jp 0xC24) ∧
  decode 0b0011_0000_0000_0101 = .ok (.seImm 0 5) ∧ decode 0b1000_0001_0010_0100 = .ok (.addReg 1 2) ∧
  decode 0b1011_0101_0010_0100 = .ok (.jpV0 0x524) ∧ decode 0b1101_0001_0010_0101 = .ok (.drw 1 2 5) ∧
  decode 0b1110_0001_1001_1110 = .ok (.skp 1) ∧ decode 0b1111_0000_0011_0011 = .ok (.ldB 0) ∧
  decode 0b0000_0001_1110_0000 = .error (.unknownOpcode 0x01E0)

/-! ### The Step cycle (spec/40_step.md) and the fatal conditions (spec/60_exceptions.md) -/

/-- When the machine is not halted, a Step is due, and the bytes at `pc` decode to an instruction (in any spelling), the
step runs exactly that instruction, on the state with the due Step taken, the inputs polled and `pc` pre-advanced mod
4096. The free inputs are the model's (logs 2, 8, 9); the wrap of `pc` is decision D4 (log 7). -/
def Obligations.StepRunsTheDecodedInstruction : Prop :=
  ∀ (s : State) (i : Instr), s.halted = none → s.dueSteps ≠ 0 →
    decode (wordOfBytes (s.mem.read s.pc.toNat) (s.mem.read (s.pc.toNat + 1))) = .ok i →
    step s = exec i
      { s with
        pc := BitVec.ofNat 16 ((s.pc.toNat + 2) % 4096), dueSteps := s.dueSteps - 1
        keysHeld := Config.keysHeld s.inputCount, keysNew := Config.keysNew s.inputCount
        rnd := Config.drawByte s.inputCount, keyPick := Config.keyPick s.inputCount
        inputCount := s.inputCount + 1 }

/-- A fetched word that matches no row halts the machine with UnknownOpcode, the word and its fetch address; `pc` is
pre-advanced, one fault report is emitted, and nothing else changes (R103, R211, R215, R217). The masks are decisions D6
to D8, the sticky halt D21 (logs 13, 26, 31). -/
def Obligations.UnknownWordHaltsTheMachine : Prop :=
  ∀ s : State, s.halted = none → s.dueSteps ≠ 0 → (¬ ∃ r ∈ opcodeTable, r.matchesWord s.fetchWord) →
    step s = .next
      ({ s with
        pc := BitVec.ofNat 16 ((s.pc.toNat + 2) % 4096)
        keysHeld := Config.keysHeld s.inputCount, keysNew := Config.keysNew s.inputCount
        rnd := Config.drawByte s.inputCount, keyPick := Config.keyPick s.inputCount
        inputCount := s.inputCount + 1 }.stoppedBy (.unknownOpcode s.fetchWord s.pc))

/-- Nothing but a halt stops the machine: every running state has a successor, whatever its registers, memory and inputs,
and a halted one has none (R106, R214; the sticky halt is decision D21, log 13). -/
def Obligations.OnlyAHaltedMachineStops : Prop :=
  ∀ s : State, ((∃ t, step s = .next t) ↔ s.halted = none) ∧ ∀ c, s.halted = some c → step s = .fault (.halted c)

/-- With no Step due, the step is the start of the host's next Update with some non-negative elapsed time (R225, R228);
that the Update is a step of the model is the model's choice (logs 2, 10). -/
def Obligations.NoDueStepBeginsTheNextUpdate : Prop :=
  ∀ s : State, s.halted = none → s.dueSteps = 0 →
    ∃ delta : Rat, 0 ≤ delta ∧ step s = .next ({ s with inputCount := s.inputCount + 1 }.beginUpdate delta)

/-! ### Arithmetic and logic (spec/41_arith_logic.md) -/

/-- 7XNN: `V[X] <- (V[X] + NN) mod 256`, no flag, nothing else changed, for every register and immediate (R120). -/
def Obligations.AddImmediateWraps : Prop :=
  EncodedAs 0xF000 0x7000 (fun w => .addImm (fieldX w) (fieldNN w)) ∧
  ∀ (x : RegIdx) (nn : Byte) (s : State), ∃ t, exec (.addImm x nn) s = .next t ∧
    WritesOnly s t x (BitVec.ofNat 8 (((s.readV x).toNat + nn.toNat) % 256))

/-- 8XY0 to 8XY3: copy, OR, AND, XOR into V[X]; VF is not a flag here and nothing else changes (R111 to R114; the
numbers and 8XY0 are general knowledge, D9, log 16). -/
def Obligations.CopyAndBitwiseWriteOnlyTheDestination : Prop :=
  ∀ (x y : RegIdx) (s : State),
    (∃ t, exec (.ldReg x y) s = .next t ∧ WritesOnly s t x (s.readV y)) ∧
    (∃ t, exec (.orReg x y) s = .next t ∧ WritesOnly s t x (s.readV x ||| s.readV y)) ∧
    (∃ t, exec (.andReg x y) s = .next t ∧ WritesOnly s t x (s.readV x &&& s.readV y)) ∧
    (∃ t, exec (.xorReg x y) s = .next t ∧ WritesOnly s t x (s.readV x ^^^ s.readV y))

/-- 8XY4: the whole case table of R115, X or Y = 0xF included (the sequential reading is decision D10, log 17; the
number is general knowledge, D9, log 16). `c` is the carry out of bit 7. -/
def Obligations.AddWithCarryOutCases : Prop :=
  ∀ (x y : RegIdx) (s : State),
    let a := (s.readV x).toNat
    let b := (s.readV y).toNat
    let c := if 255 < a + b then 1 else 0
    ∃ t, exec (.addReg x y) s = .next t ∧
      (x ≠ VF → y ≠ VF → WritesResultAndFlag s t x (BitVec.ofNat 8 ((a + b) % 256)) (BitVec.ofNat 8 c)) ∧
      (x ≠ VF → y = VF → WritesResultAndFlag s t x (BitVec.ofNat 8 ((a + c) % 256)) (BitVec.ofNat 8 c)) ∧
      (x = VF → y ≠ VF → WritesOnly s t VF (BitVec.ofNat 8 ((c + b) % 256))) ∧
      (x = VF → y = VF → WritesOnly s t VF (BitVec.ofNat 8 (2 * c)))

/-- 8XY5 and 8XY7: the whole case tables of R116 and R118: VF = 1 iff the minuend is strictly greater (90_conflicts.md
C10), wraparound result, X or Y = 0xF included (the sequential reading is decision D10, log 17; the numbers are general
knowledge, D9, log 16). -/
def Obligations.SubtractAndReverseSubtractCases : Prop :=
  ∀ (x y : RegIdx) (s : State),
    let a := (s.readV x).toNat
    let b := (s.readV y).toNat
    let c := if b < a then 1 else 0
    let d := if a < b then 1 else 0
    (∃ t, exec (.subReg x y) s = .next t ∧
      (x ≠ VF → y ≠ VF → WritesResultAndFlag s t x (BitVec.ofNat 8 ((a + 256 - b) % 256)) (BitVec.ofNat 8 c)) ∧
      (x ≠ VF → y = VF → WritesResultAndFlag s t x (BitVec.ofNat 8 ((a + 256 - c) % 256)) (BitVec.ofNat 8 c)) ∧
      (x = VF → y ≠ VF → WritesOnly s t VF (BitVec.ofNat 8 ((c + 256 - b) % 256))) ∧
      (x = VF → y = VF → WritesOnly s t VF 0)) ∧
    (∃ t, exec (.subn x y) s = .next t ∧
      (x ≠ VF → y ≠ VF → WritesResultAndFlag s t x (BitVec.ofNat 8 ((b + 256 - a) % 256)) (BitVec.ofNat 8 d)) ∧
      (x ≠ VF → y = VF → WritesResultAndFlag s t x (BitVec.ofNat 8 ((d + 256 - a) % 256)) (BitVec.ofNat 8 d)) ∧
      (x = VF → y ≠ VF → WritesOnly s t VF (BitVec.ofNat 8 ((b + 256 - d) % 256))) ∧
      (x = VF → y = VF → WritesOnly s t VF 0))

/-- 8XY6: the whole case table of R117 in both modes: the legacy form shifts `V[Y]`, the modern form `V[X]`, X or Y = 0xF
included (decision D10, log 17). -/
def Obligations.ShiftRightCases : Prop :=
  ∀ (x y : RegIdx) (s : State),
    let a := (s.readV x).toNat
    let b := (s.readV y).toNat
    ∃ t, exec (.shr x y) s = .next t ∧
      (s.legacyShift = true → x ≠ VF → y ≠ VF →
        WritesResultAndFlag s t x (BitVec.ofNat 8 (b / 2)) (BitVec.ofNat 8 (b % 2))) ∧
      (s.legacyShift = true → x ≠ VF → y = VF → WritesResultAndFlag s t x 0 (BitVec.ofNat 8 (b % 2))) ∧
      (s.legacyShift = true → x = VF → y ≠ VF → WritesOnly s t VF (BitVec.ofNat 8 (b / 2))) ∧
      (s.legacyShift = true → x = VF → y = VF → WritesOnly s t VF 0) ∧
      (s.legacyShift = false → x ≠ VF →
        WritesResultAndFlag s t x (BitVec.ofNat 8 (a / 2)) (BitVec.ofNat 8 (a % 2))) ∧
      (s.legacyShift = false → x = VF → WritesOnly s t VF 0)

/-- 8XYE: the whole case table of R119 in both modes (decision D10, log 17). -/
def Obligations.ShiftLeftCases : Prop :=
  ∀ (x y : RegIdx) (s : State),
    let a := (s.readV x).toNat
    let b := (s.readV y).toNat
    ∃ t, exec (.shl x y) s = .next t ∧
      (s.legacyShift = true → x ≠ VF → y ≠ VF →
        WritesResultAndFlag s t x (BitVec.ofNat 8 (2 * b % 256)) (BitVec.ofNat 8 (b / 128))) ∧
      (s.legacyShift = true → x ≠ VF → y = VF →
        WritesResultAndFlag s t x (BitVec.ofNat 8 (2 * (b / 128))) (BitVec.ofNat 8 (b / 128))) ∧
      (s.legacyShift = true → x = VF → y ≠ VF → WritesOnly s t VF (BitVec.ofNat 8 (2 * b % 256))) ∧
      (s.legacyShift = true → x = VF → y = VF → WritesOnly s t VF (BitVec.ofNat 8 (2 * (b / 128)))) ∧
      (s.legacyShift = false → x ≠ VF →
        WritesResultAndFlag s t x (BitVec.ofNat 8 (2 * a % 256)) (BitVec.ofNat 8 (a / 128))) ∧
      (s.legacyShift = false → x = VF → WritesOnly s t VF (BitVec.ofNat 8 (2 * (a / 128))))

/-! ### Control transfer (spec/42_control_flow.md) -/

/-- 3XNN and 4XNN: on equality, on inequality, `pc` advances by 2 more; otherwise nothing changes (R130, R131). -/
def Obligations.SkipOnImmediate : Prop :=
  EncodedAs 0xF000 0x3000 (fun w => .seImm (fieldX w) (fieldNN w)) ∧
  EncodedAs 0xF000 0x4000 (fun w => .sneImm (fieldX w) (fieldNN w)) ∧
  ∀ (x : RegIdx) (nn : Byte) (s : State),
    exec (.seImm x nn) s = .next (if s.readV x = nn then s.withPc (s.pc.toNat + 2) else s) ∧
    exec (.sneImm x nn) s = .next (if s.readV x = nn then s else s.withPc (s.pc.toNat + 2))

/-- 5XYN and 9XYN, whatever N is: skip if the two registers are equal, or differ (R132, R133; that N is ignored is
decision D7, log 15). -/
def Obligations.SkipOnTwoRegisters : Prop :=
  EncodedAs 0xF000 0x5000 (fun w => .seReg (fieldX w) (fieldY w) (fieldN w)) ∧
  EncodedAs 0xF000 0x9000 (fun w => .sneReg (fieldX w) (fieldY w) (fieldN w)) ∧
  ∀ (x y : RegIdx) (n : Nibble) (s : State),
    exec (.seReg x y n) s = .next (if s.readV x = s.readV y then s.withPc (s.pc.toNat + 2) else s) ∧
    exec (.sneReg x y n) s = .next (if s.readV x = s.readV y then s else s.withPc (s.pc.toNat + 2))

/-- 1NNN: `pc <- NNN`, any of the 4096 targets, odd ones included; the stack and everything else unchanged (R134). -/
def Obligations.JumpReplacesThePc : Prop :=
  EncodedAs 0xF000 0x1000 (fun w => .jp (fieldNNN w)) ∧
  ∀ (nnn : Addr12) (s : State), exec (.jp nnn) s = .next { s with pc := nnn.setWidth 16 }

/-- BNNN: `pc <- NNN + V[0]`, zero-extended, stored mod 4096 (R135; the wrap is decision D4, log 7). -/
def Obligations.JumpWithOffsetAddsV0 : Prop :=
  EncodedAs 0xF000 0xB000 (fun w => .jpV0 (fieldNNN w)) ∧
  ∀ (nnn : Addr12) (s : State), exec (.jpV0 nnn) s = .next (s.withPc (nnn.toNat + (s.readV 0).toNat))

/-- 2NNN: with room on the stack the pre-advanced `pc` is pushed and `pc <- NNN`; on a full bounded stack the machine
stops with StackOverflow and pushes nothing (R136, R213; the bound is decision D22, the recorded address D27; logs 22,
26). -/
def Obligations.CallPushesTheReturnAddress : Prop :=
  EncodedAs 0xF000 0x2000 (fun w => .call (fieldNNN w)) ∧
  ∀ (nnn : Addr12) (s : State),
    (s.stackLimit ≠ some s.stack.length →
      exec (.call nnn) s = .next { s with stack := s.pc :: s.stack, pc := nnn.setWidth 16 }) ∧
    (s.stackLimit = some s.stack.length →
      exec (.call nnn) s = .next (s.stoppedBy (.stackOverflow (BitVec.ofNat 16 ((s.pc - 2).toNat % 4096)))))

/-- 00EE: the top entry goes to `pc` with no further adjustment; on an empty stack StackUnderflow is raised, `pc` keeps
its value and the stack stays empty; and a return right after a call comes back to the instruction after the call
(R137). What the empty stack leaves besides (the sticky halt, no Step left, the fault report) is R215, R218 and decision
D21, log 13. -/
def Obligations.ReturnPopsIntoThePc : Prop :=
  EncodedAs 0xFFFF 0x00EE (fun _ => .ret) ∧
  (∀ (s : State) (r : Word) (rest : List Word), s.stack = r :: rest →
    exec .ret s = .next ({ s with stack := rest }.withPc r.toNat)) ∧
  (∀ s : State, s.stack = [] → ∃ fa, exec .ret s = .next (s.stoppedBy (.stackUnderflow fa))) ∧
  ∀ (nnn : Addr12) (s t : State), s.pc.toNat < 4096 → s.stackLimit ≠ some s.stack.length → exec (.call nnn) s = .next t →
    ∃ u, exec .ret t = .next u ∧ u.pc = s.pc ∧ u.stack = s.stack

/-- "Calling a subroutine then returning restores `PC` to exactly the instruction following the call": whatever runs in
between, if it leaves the stack as the call left it, the return comes back and the stack is as before the call; this
composes to any nesting depth (95_test_vectors.md S6; the limit is decision D22, log 22). -/
def Obligations.ReturnComesBackToTheCall : Prop :=
  ∀ (nnn : Addr12) (s : State), s.pc.toNat < 4096 → s.stackLimit ≠ some s.stack.length →
    ∃ t, exec (.call nnn) s = .next t ∧
      ∀ u : State, u.stack = t.stack → ∃ w, exec .ret u = .next w ∧ w.pc = s.pc ∧ w.stack = s.stack ∧
        w = { u with pc := w.pc, stack := w.stack }

/-- A fatal condition records the address of the instruction that raised it: a return with an empty stack, run by a step
at an in-range `pc`, stops with StackUnderflow and that `pc`, which is left pre-advanced; one fault report is emitted, no
Step is left, and nothing else changes but the polled inputs (R212, R215, R217, R218; recording the address is decision
D27, log 26; the sticky halt is D21, log 13; the free inputs are the model's, log 8). -/
def Obligations.UnderflowRecordsTheFetchAddress : Prop :=
  ∀ s : State, s.halted = none → s.dueSteps ≠ 0 → s.pc.toNat < 4096 → s.fetchWord = 0x00EE → s.stack = [] →
    step s = .next
      ({ s with
        pc := BitVec.ofNat 16 ((s.pc.toNat + 2) % 4096)
        keysHeld := Config.keysHeld s.inputCount, keysNew := Config.keysNew s.inputCount
        rnd := Config.drawByte s.inputCount, keyPick := Config.keyPick s.inputCount
        inputCount := s.inputCount + 1 }.stoppedBy (.stackUnderflow s.pc))

/-! ### Loads, I and memory (spec/43_load_index_memory.md) -/

/-- 6XNN: `V[X] <- NN` (R150); ANNN: `I <- NNN`, the upper four bits 0, and besides it only the 16-bit wrap of
FX1E and the recomputation by FX29 can lower I (R151); nothing else changes. -/
def Obligations.LoadImmediateSetsTheRegister : Prop :=
  EncodedAs 0xF000 0x6000 (fun w => .ldImm (fieldX w) (fieldNN w)) ∧
  EncodedAs 0xF000 0xA000 (fun w => .ldI (fieldNNN w)) ∧
  (∀ (x : RegIdx) (nn : Byte) (s : State), ∃ t, exec (.ldImm x nn) s = .next t ∧ WritesOnly s t x nn) ∧
  (∀ (nnn : Addr12) (s : State), exec (.ldI nnn) s = .next { s with i := BitVec.ofNat 16 nnn.toNat }) ∧
  ∀ (i : Instr) (s t : State), exec i s = .next t → t.i.toNat < s.i.toNat →
    (∃ nnn, i = .ldI nnn) ∨ (∃ x, i = .addI x ∧ 65535 < s.i.toNat + (s.readV x).toNat) ∨ ∃ x, i = .ldF x

/-- CXNN: `V[X] <- rnd & NN` for whatever byte the Step was given (R152). -/
def Obligations.RandomByteIsMasked : Prop :=
  EncodedAs 0xF000 0xC000 (fun w => .rnd (fieldX w) (fieldNN w)) ∧
  ∀ (x : RegIdx) (nn : Byte) (s : State), ∃ t, exec (.rnd x nn) s = .next t ∧ WritesOnly s t x (s.rnd &&& nn)

/-- FX33: the hundreds, tens and ones of V[X] go to I, I+1, I+2 mod 4096; every other byte, I and everything else are
unchanged (R154). -/
def Obligations.BcdStoresThreeDigits : Prop :=
  EncodedAs 0xF0FF 0xF033 (fun w => .ldB (fieldX w)) ∧
  ∀ (x : RegIdx) (s : State), ∃ t, exec (.ldB x) s = .next t ∧ t = { s with mem := t.mem } ∧
    t.mem.read s.i.toNat = BitVec.ofNat 8 ((s.readV x).toNat / 100) ∧
    t.mem.read (s.i.toNat + 1) = BitVec.ofNat 8 ((s.readV x).toNat / 10 % 10) ∧
    t.mem.read (s.i.toNat + 2) = BitVec.ofNat 8 ((s.readV x).toNat % 10) ∧
    ∀ a, (∀ k < 3, a % 4096 ≠ (s.i.toNat + k) % 4096) → t.mem.read a = s.mem.read a

/-- FX55: V[0] to V[X] go to I .. I+X mod 4096; every other byte, I and everything else are unchanged (R155). -/
def Obligations.RegisterDumpStoresUpToX : Prop :=
  EncodedAs 0xF0FF 0xF055 (fun w => .ldMemVx (fieldX w)) ∧
  ∀ (x : RegIdx) (s : State), ∃ t, exec (.ldMemVx x) s = .next t ∧ t = { s with mem := t.mem } ∧
    (∀ r : RegIdx, r.toNat ≤ x.toNat → t.mem.read (s.i.toNat + r.toNat) = s.readV r) ∧
    ∀ a, (∀ k ≤ x.toNat, a % 4096 ≠ (s.i.toNat + k) % 4096) → t.mem.read a = s.mem.read a

/-- FX65: V[0] to V[X] are loaded from I .. I+X mod 4096; the registers above X, I, every byte of memory and everything
else are unchanged (R156). -/
def Obligations.RegisterLoadReadsUpToX : Prop :=
  EncodedAs 0xF0FF 0xF065 (fun w => .ldVxMem (fieldX w)) ∧
  ∀ (x : RegIdx) (s : State), ∃ t, exec (.ldVxMem x) s = .next t ∧ t = { s with v := t.v } ∧
    (∀ r : RegIdx, r.toNat ≤ x.toNat → t.readV r = s.mem.read ((s.i.toNat + r.toNat) % 4096)) ∧
    (∀ r : RegIdx, x.toNat < r.toNat → t.readV r = s.readV r)

/-- FX29: `I <- V[X] * 5`, the whole byte multiplied (R157; no mask is decision D15, log 20). -/
def Obligations.FontAddressIsFiveTimesTheByte : Prop :=
  EncodedAs 0xF0FF 0xF029 (fun w => .ldF (fieldX w)) ∧
  ∀ (x : RegIdx) (s : State), exec (.ldF x) s = .next { s with i := BitVec.ofNat 16 ((s.readV x).toNat * 5) }

/-- FX1E: `I <- (I + V[X]) mod 65536`, VF = 1 iff the exact sum exceeds 65535, with V[X] read before VF is written
(R158, whose wrap the spec derives from R22). -/
def Obligations.AddToIndexCarriesAtSixteenBits : Prop :=
  EncodedAs 0xF0FF 0xF01E (fun w => .addI (fieldX w)) ∧
  ∀ (x : RegIdx) (s : State), ∃ t, exec (.addI x) s = .next t ∧
    t.i.toNat = (s.i.toNat + (s.readV x).toNat) % 65536 ∧
    t.readV VF = (if 65535 < s.i.toNat + (s.readV x).toNat then 1 else 0) ∧
    (∀ r, r ≠ VF → t.readV r = s.readV r) ∧ t = { s with i := t.i, v := t.v }

/-! ### Display (spec/44_display.md) -/

/-- 00E0: every pixel off, one DisplayClear event, VF and everything else unchanged (R171). -/
def Obligations.ClearTurnsEveryPixelOff : Prop :=
  EncodedAs 0xFFFF 0x00E0 (fun _ => .cls) ∧
  ∀ s : State, ∃ t, exec .cls s = .next t ∧ t = { s with display := t.display, trace := s.trace ++ [.displayClear] } ∧
    (∀ x y, pixelAt t.display x y = false) ∧ t.display.length = s.height ∧ ∀ row ∈ t.display, row.length = s.width

/-- DXYN, any N, both edge policies, any surface: it completes; only VF among the registers, the display and the event
trace change; every byte of memory and I are unchanged; each pixel of the surface is XORed with the parity of the sprite
cells that land on it (R172, R173; N = 0 is decision D11, the clip origin D12, the visiting order D13; log 18). -/
def Obligations.DrawXorsTheCoveredPixels : Prop :=
  EncodedAs 0xF000 0xD000 (fun w => .drw (fieldX w) (fieldY w) (fieldN w)) ∧
  ∀ (x y : RegIdx) (n : Nibble) (s : State), s.DisplayShaped → ∃ t, exec (.drw x y n) s = .next t ∧
    t = { s with v := t.v, display := t.display, trace := t.trace } ∧
    (∀ r, r ≠ VF → t.readV r = s.readV r) ∧ (∀ a, t.mem.read a = s.mem.read a) ∧
    ∀ px py, px < s.width → py < s.height →
      pixelAt t.display px py =
        (pixelAt s.display px py ^^
          decide (s.coverCount (s.readV x).toNat (s.readV y).toNat n.toNat px py % 2 = 1))

/-- DXYN: VF is 1 iff some cell lands on a pixel that was on, or two cells land on one pixel of the surface (the second
then meets it on); otherwise VF is 0. A cumulative OR over all rows and columns (R175; the visiting order is decision
D13, log 18). -/
def Obligations.CollisionFlagIsCumulative : Prop :=
  ∀ (x y : RegIdx) (n : Nibble) (s : State), s.DisplayShaped → ∃ t, exec (.drw x y n) s = .next t ∧
    let count := s.coverCount (s.readV x).toNat (s.readV y).toNat n.toNat
    ((∃ px py, px < s.width ∧ py < s.height ∧ (pixelAt s.display px py = true ∧ 1 ≤ count px py ∨ 2 ≤ count px py)) →
      t.readV VF = 1) ∧
    ((∀ px py, px < s.width → py < s.height → (pixelAt s.display px py = false ∨ count px py = 0) ∧ count px py < 2) →
      t.readV VF = 0)

/-- DXYN: "Drawing the same sprite twice at the same location returns every touched pixel to its prior state" (R177,
which the spec derives), on any surface, with the origin registers other than VF. -/
def Obligations.DrawingTwiceRestoresTheDisplay : Prop :=
  ∀ (x y : RegIdx) (n : Nibble) (s : State), x ≠ VF → y ≠ VF →
    ∃ t u, exec (.drw x y n) s = .next t ∧ exec (.drw x y n) t = .next u ∧ u.display = s.display

/-- DXYN reports one DisplaySet for each sprite bit of 1 on the surface, rows ascending and columns left to right, and
nothing else; on every legal surface each carries the pixel's new value, a pixel visited twice included (R172, R176; order
and meaning of "modified" are decision D13, N = 0 is D11, the clip origin D12, log 18). -/
def Obligations.DrawReportsEachFlip : Prop :=
  ∀ (x y : RegIdx) (n : Nibble) (s : State), ∃ t, exec (.drw x y n) s = .next t ∧
    (∃ values : List Bool,
      values.length = (s.coveredPixels (s.readV x).toNat (s.readV y).toNat n.toNat).length ∧
      t.trace = s.trace ++ List.zipWith (fun p b => Event.displaySet p.1 p.2 b)
        (s.coveredPixels (s.readV x).toNat (s.readV y).toNat n.toNat) values) ∧
    (s.DisplayShaped → 1 ≤ s.width → 1 ≤ s.height →
      t.trace = s.trace ++ s.drawEvents (s.readV x).toNat (s.readV y).toNat n.toNat)

/-! ### Timers, sound and keys (spec/45_timer_key_sound.md) -/

/-- FX07: `V[X] <- DT`, the read leaves DT alone, and only FX15 among the instructions changes DT (R190). -/
def Obligations.ReadDelayTimerHasNoSideEffect : Prop :=
  EncodedAs 0xF0FF 0xF007 (fun w => .ldVxDT (fieldX w)) ∧
  (∀ (x : RegIdx) (s : State), ∃ t, exec (.ldVxDT x) s = .next t ∧ WritesOnly s t x s.dt) ∧
  (∀ (i : Instr) (s t : State), exec i s = .next t → (∀ x, i ≠ .ldDTVx x) → t.dt = s.dt)

/-- FX15: `DT <- V[X]`, any value; the delay-timer clock's remainder and everything else are unchanged (R191, whose note
on the remainder the spec derives). -/
def Obligations.WriteDelayTimerSetsDt : Prop :=
  EncodedAs 0xF0FF 0xF015 (fun w => .ldDTVx (fieldX w)) ∧
  ∀ (x : RegIdx) (s : State), exec (.ldDTVx x) s = .next { s with dt := s.readV x }

/-- FX18: one PlayTone event of exactly V[X] / 60 seconds, also for 0, and no state changes (R192, R235; the one-shot
tone is decision D25, log 25). -/
def Obligations.ToneIsOneEvent : Prop :=
  EncodedAs 0xF0FF 0xF018 (fun w => .ldSTVx (fieldX w)) ∧
  ∀ (x : RegIdx) (s : State), ∃ d : Rat, d * 60 = ((s.readV x).toNat : Rat) ∧
    exec (.ldSTVx x) s = .next { s with trace := s.trace ++ [.playTone d] }

/-- FX0A: with no key newly pressed `pc` is rewound by 2 and nothing else changes; otherwise V[X] gets the code of some
newly pressed key and nothing else changes (R193; any member of the set is decision D17, log 9). -/
def Obligations.KeyWaitTakesANewKey : Prop :=
  EncodedAs 0xF0FF 0xF00A (fun w => .ldVxK (fieldX w)) ∧
  ∀ (x : RegIdx) (s : State),
    ((∀ k < 16, s.keysNew.getLsbD k = false) → exec (.ldVxK x) s = .next (s.withPc (s.pc - 2).toNat)) ∧
    ((∃ k < 16, s.keysNew.getLsbD k = true) →
      ∃ k t, k < 16 ∧ s.keysNew.getLsbD k = true ∧ exec (.ldVxK x) s = .next t ∧ WritesOnly s t x (BitVec.ofNat 8 k))

/-- "Key-wait instruction leaves `PC` unchanged (net of the pre-advance)" while no key is newly pressed (95_test_vectors.md
S7): executed from the pre-advance it gives back the state the Step began in; and a Step on FX0A either polls no new key
and moves only the due count and the inputs, or takes the code of a new key and moves on. The polled answers are free
(log 8), any member of the set is taken (D17, log 9), `pc` wraps (D4, log 7). -/
def Obligations.KeyWaitBlocksOrCompletes : Prop :=
  (∀ (x : RegIdx) (s : State), s.pc.toNat < 4096 → s.keysNew = 0 → exec (.ldVxK x) s.preAdvance = .next s) ∧
  ∀ (x : RegIdx) (s : State), s.halted = none → s.dueSteps ≠ 0 → s.pc.toNat < 4096 → decode s.fetchWord = .ok (.ldVxK x) →
    ∃ t, step s = .next t ∧
      t = { s with
        v := t.v, pc := t.pc, dueSteps := s.dueSteps - 1, keysHeld := t.keysHeld, keysNew := t.keysNew, rnd := t.rnd
        keyPick := t.keyPick, inputCount := s.inputCount + 1 } ∧
      (∀ r, r ≠ x → t.readV r = s.readV r) ∧
      ((t.keysNew = 0 ∧ t.pc = s.pc ∧ t.v = s.v) ∨
        ∃ k < 16, t.keysNew.getLsbD k = true ∧ t.pc = BitVec.ofNat 16 ((s.pc.toNat + 2) % 4096) ∧
          t.readV x = BitVec.ofNat 8 k)

/-- EX9E and EXA1: skip on the level of the key whose code is V[X]; a code above 15 is never held, so EX9E never skips
and EXA1 always does (R194, R195; codes above 15 are decision D16, log 21). -/
def Obligations.SkipOnKeyLevel : Prop :=
  EncodedAs 0xF0FF 0xE09E (fun w => .skp (fieldX w)) ∧ EncodedAs 0xF0FF 0xE0A1 (fun w => .sknp (fieldX w)) ∧
  ∀ (x : RegIdx) (s : State),
    let held : Prop := (s.readV x).toNat < 16 ∧ s.keysHeld.getLsbD (s.readV x).toNat = true
    (held → exec (.skp x) s = .next (s.withPc (s.pc.toNat + 2)) ∧ exec (.sknp x) s = .next s) ∧
    (¬ held → exec (.skp x) s = .next s ∧ exec (.sknp x) s = .next (s.withPc (s.pc.toNat + 2)))

/-- Keys are polled at the start of every Step, whatever the instruction, and only FX0A, EX9E and EXA1 read the answers:
any other instruction does the same with any answers (R107). That the answers are bodiless constants applied to a count,
and the free choice of FX0A with them, are the model's choice (D18, log 8; D17, log 9). -/
def Obligations.KeysArePolledEachStepAndReadByThree : Prop :=
  (∀ s : State, s.beginStep.keysHeld = Config.keysHeld s.inputCount ∧
    s.beginStep.keysNew = Config.keysNew s.inputCount ∧ s.beginStep.inputCount = s.inputCount + 1) ∧
  (∀ s : State, s.halted = none → s.dueSteps ≠ 0 →
    (∀ i, decode s.fetchWord = .ok i → step s = exec i s.beginStep) ∧
    (∀ e, decode s.fetchWord = .error e → ∃ c, step s = .next (s.beginStep.raise c))) ∧
  (∀ (i : Instr) (s t : State) (held new : BitVec 16) (pick : Nat),
    (∀ x, i ≠ .ldVxK x ∧ i ≠ .skp x ∧ i ≠ .sknp x) → exec i s = .next t →
    exec i { s with keysHeld := held, keysNew := new, keyPick := pick } =
      .next { t with keysHeld := held, keysNew := new, keyPick := pick })

/-! ### The Timer Subsystem (spec/60_exceptions.md) -/

/-- DT under an Update: `max(DT - n, 0)` for the n ticks due, the same as n single decrements each of which leaves a zero
DT at zero; the clock's remainder does not depend on DT; and no instruction but FX15 changes DT (R226). -/
def Obligations.DelayTimerDecrementsAndClamps : Prop :=
  (∀ (s : State) (delta : Rat),
    let n := (dueTicks s.accDelay delta 60).1
    (s.beginUpdate delta).dt.toNat = max (s.dt.toNat - n) 0 ∧
    (s.beginUpdate delta).dt = (fun d => decrementDt d 1)^[n] s.dt ∧
    ∀ d, ({ s with dt := d }.beginUpdate delta).accDelay = (s.beginUpdate delta).accDelay) ∧
  (∀ n, (fun d => decrementDt d 1)^[n] 0 = 0) ∧
  (∀ (i : Instr) (s t : State), exec i s = .next t → (∀ x, i ≠ .ldDTVx x) → t.dt = s.dt)

/-- However an elapsed time is cut into Updates, a clock of f ticks per second that starts with no remainder has due
exactly floor(T * f) ticks in T seconds (R227, which the spec derives from exact arithmetic, decision D20, log 11). -/
def Obligations.LongRunRateIsExact : Prop :=
  ∀ (f : Nat) (deltas : List Rat), 1 ≤ f → (∀ d ∈ deltas, 0 ≤ d) →
    (deltas.foldl (fun (p : Nat × Rat) d => (p.1 + (dueTicks p.2 d f).1, (dueTicks p.2 d f).2)) (0, 0)).1 =
      (deltas.sum * (f : Rat)).floor.toNat

/-- Update(delta), the host's whole operation: refused in the middle of an Update and for a negative delta, nothing on a
halted machine, and otherwise it completes (R225, R105, R216; refusing and freezing are decisions D20, D21; logs 13, 23). -/
def Obligations.UpdateCompletesOrDoesNothing : Prop :=
  ∀ (s : State) (delta : Rat),
    (s.dueSteps ≠ 0 → s.hostUpdate delta = .refused .insideUpdate) ∧
    (s.dueSteps = 0 → delta < 0 → s.hostUpdate delta = .refused .negativeDelta) ∧
    (s.dueSteps = 0 → 0 ≤ delta → s.halted ≠ none → s.hostUpdate delta = .next s) ∧
    (s.dueSteps = 0 → 0 ≤ delta → s.halted = none → ∃ t, s.hostUpdate delta = .next t)

/-- The machine's steps are the host's Updates, one Step at a time: what a whole Update leaves is what the machine's run
from the Update's start reaches; all due Steps run unless a fatal condition ends the batch early, and then no Step is left
(R225, R218; decrements before Steps is decision D19; logs 2, 12). -/
def Obligations.UpdateIsARunOfSteps : Prop :=
  ∀ (s t : State) (delta : Rat), 0 ≤ delta → s.halted = none → s.hostUpdate delta = .next t →
    ∃ k ≤ (dueTicks s.accCpu delta s.cpuHz).1,
      Host.Core.run core k (s.beginUpdate delta) = .next t ∧ t.dueSteps = 0 ∧
      (t.halted = none → k = (dueTicks s.accCpu delta s.cpuHz).1)

/-! ### Reset (spec/70_reset_and_hazards.md) -/

/-- Reset: between Updates, on legal build parameters, a ROM of at most 3584 bytes and a positive frequency give the whole
new state; in the middle of an Update, with an empty surface, a stack limit of 0, a longer ROM or a frequency of 0 it is
refused (R250, R252, R256, R8; V, display, accumulators and halt status at reset are decisions D1 to D3, the refusals D20,
D23 and 93_implementation_defined.md U14; logs 4, 5, 6, 23). The trace and the inputs are the environment's and go on (log
14). -/
def Obligations.ResetReplacesTheState : Prop :=
  ∀ (s : State) (rom : List Byte) (legacy wrap : Bool) (hz : Nat),
    let ready : Prop := s.dueSteps = 0 ∧ 1 ≤ s.width ∧ 1 ≤ s.height ∧ s.stackLimit ≠ some 0
    (s.dueSteps ≠ 0 → s.hostReset rom legacy wrap hz = .refused .insideUpdate) ∧
    (s.dueSteps = 0 → s.width = 0 ∨ s.height = 0 → s.hostReset rom legacy wrap hz = .refused .surfaceEmpty) ∧
    (s.dueSteps = 0 → 1 ≤ s.width → 1 ≤ s.height → s.stackLimit = some 0 →
      s.hostReset rom legacy wrap hz = .refused .stackLimitZero) ∧
    (ready → 3584 < rom.length → s.hostReset rom legacy wrap hz = .refused .romTooLong) ∧
    (ready → rom.length ≤ 3584 → hz = 0 → s.hostReset rom legacy wrap hz = .refused .clockNotPositive) ∧
    (ready → rom.length ≤ 3584 → 1 ≤ hz → ∃ t, s.hostReset rom legacy wrap hz = .next t ∧
      (∀ a < 4096, t.mem.read a =
        if h : a < 80 then s.mem.font[a]
        else if 0x200 ≤ a then rom.getD (a - 0x200) 0 else 0) ∧
      t.mem.wf ∧ (∀ r, t.readV r = 0) ∧ (∀ x y, pixelAt t.display x y = false) ∧ t.DisplayShaped ∧
      t = { s with
        v := t.v, mem := t.mem, display := t.display, pc := 0x200, i := 0, dt := 0, stack := [], accCpu := 0
        accDelay := 0, halted := none, dueSteps := 0, legacyShift := legacy, wrapEdges := wrap, cpuHz := hz })

/-- "The 80 bytes of `FONT` are written at address 0 on every reset", whatever the ROM and whatever stood in memory before
(R253). -/
def Obligations.FontIsWrittenOnEveryReset : Prop :=
  ∀ (s : State) (rom : List Byte) (legacy wrap : Bool) (hz : Nat) (t : State),
    s.hostReset rom legacy wrap hz = .next t → ∀ (k : Nat) (h : k < 80), t.mem.read k = s.mem.font[k]

/-- `State.reset` is what building a machine with the defaults of R8 and an empty ROM leaves, and what Reset with an empty
ROM and the default frequency makes of it, and the machine then starts at 0x200 with I, DT and the stack cleared (R8, R37,
R250, R254; that the toggles are bodiless constants and the ROM empty is the model's choice, logs 1, 2; the font: log 3; V,
display, accumulators: logs 4, 5, 6; the size and the stack limit: logs 22, 27). -/
def Obligations.ResetStateIsAFreshMachine : Prop :=
  State.hostBuild defaultFont 64 32 none [] defaultLegacyShift defaultWrapEdges 500 = .next State.reset ∧
  State.reset.hostReset [] defaultLegacyShift defaultWrapEdges 500 = .next State.reset ∧
  State.reset.pc = 0x200 ∧ State.reset.i = 0 ∧ State.reset.dt = 0 ∧ State.reset.stack = [] ∧
  State.reset.fetchWord = 0

/-! ### Invariants -/

/-- The invariant holds at reset, and the sink's picture is the display there (R37, R234). It rests on the display off at
reset (D2, log 5), the zero remainders and no halt (D3, log 6), the empty trace (log 14), no stack limit (D22, log 22) and
the 64 by 32 surface at 500 Hz (D29, log 27). -/
def Obligations.InvariantHoldsAtReset : Prop := State.reset.Inv ∧ State.reset.SinkShowsDisplay

/-- Every step keeps the invariant: `pc` and stack entries within [0, 4095], the stack within its limit, memory in
canonical form, the display H rows of W pixels, each clock's remainder below one tick, legal parameters, no Step left on a
halted machine (R8, R24, R26, R28, R30, R34; decisions D3, D4, D20, D21, D22; logs 6, 7, 11, 13, 22). -/
def Obligations.EveryStepKeepsTheInvariant : Prop := ∀ s t : State, s.Inv → step s = .next t → t.Inv

/-- Every step keeps the display sink's picture equal to the display surface: replaying all events from an all-off picture
gives D exactly (R234, which the spec derives; the events of a draw are decision D13, log 18). -/
def Obligations.EveryStepKeepsTheSinkInStep : Prop :=
  ∀ s t : State, s.Inv → s.SinkShowsDisplay → step s = .next t → t.SinkShowsDisplay

/-- Every machine that can be built meets the invariant, whatever its parameters, and Reset and Update keep it, so it
holds between any two acts of the host (R8, R254, R250, R225; decisions D1 to D3, D20, D21, D22; logs 5, 6, 11, 13, 22,
23). -/
def Obligations.HostActsKeepTheInvariant : Prop :=
  (∀ (font : Vector Byte 80) (w h : Nat) (limit : Option Nat) (rom : List Byte) (legacy wrap : Bool) (hz : Nat) (t : State),
    State.hostBuild font w h limit rom legacy wrap hz = .next t →
      t.Inv ∧ t.mem.font = font ∧ t.width = w ∧ t.height = h ∧ t.stackLimit = limit) ∧
  ∀ s t : State, s.Inv →
    (∀ (rom : List Byte) (legacy wrap : Bool) (hz : Nat), s.hostReset rom legacy wrap hz = .next t → t.Inv) ∧
    (∀ delta : Rat, s.hostUpdate delta = .next t → t.Inv)

/-! ### Rules about the whole machine -/

/-- Nothing but FX33 and FX55 changes memory, in any step; and there is no protection: every address can be read by FX65,
written by FX33 and FX55, and fetched from (R57). -/
def Obligations.MemoryIsUnprotectedAndWrittenByTwo : Prop :=
  (∀ (i : Instr) (s t : State), exec i s = .next t → (∀ x, i ≠ .ldB x ∧ i ≠ .ldMemVx x) →
    t.mem = s.mem ∧ ∀ a, t.mem.read a = s.mem.read a) ∧
  (∀ (s t : State), step s = .next t →
    (∀ i x, decode s.fetchWord = .ok i → i ≠ .ldB x ∧ i ≠ .ldMemVx x) → t.mem = s.mem) ∧
  (∀ (s : State) (a : Word) (b : Byte),
    (∃ t, exec (.ldMemVx 0) ({ s with i := a }.setV 0 b) = .next t ∧ t.mem.read a.toNat = b) ∧
    (∃ t, exec (.ldB 0) ({ s with i := a }.setV 0 b) = .next t ∧ t.mem.read a.toNat = BitVec.ofNat 8 (b.toNat / 100)) ∧
    (∃ t, exec (.ldVxMem 0) { s with i := a } = .next t ∧ t.readV 0 = s.mem.read a.toNat)) ∧
  (∀ (s : State) (a : Word), s.halted = none → s.dueSteps ≠ 0 →
    ∃ t, step { s with pc := a } = .next t ∧
      (∀ i, decode (wordOfBytes (s.mem.read a.toNat) (s.mem.read (a.toNat + 1))) = .ok i →
        exec i { s with pc := a }.beginStep = .next t))

/-- Who writes what: I only by ANNN, FX1E and FX29; the stack only by 2NNN and 00EE; the display only by 00E0 and DXYN; the
halt status only by 2NNN and 00EE; the clocks' remainders by no instruction; the configuration and the build parameters by
no instruction and by no step (10_state.md, 20_memory.md section 11, 70_reset_and_hazards.md section 1). -/
def Obligations.EachPartHasItsWriters : Prop :=
  (∀ (i : Instr) (s t : State), exec i s = .next t →
    ((∀ n x, i ≠ .ldI n ∧ i ≠ .addI x ∧ i ≠ .ldF x) → t.i = s.i) ∧
    ((∀ n, i ≠ .call n ∧ i ≠ .ret) → t.stack = s.stack ∧ t.halted = s.halted ∧ t.dueSteps = s.dueSteps) ∧
    ((∀ x y n, i ≠ .cls ∧ i ≠ .drw x y n) → t.display = s.display) ∧
    t.accCpu = s.accCpu ∧ t.accDelay = s.accDelay) ∧
  (∀ s t : State, (step s = .next t ∨ ∃ i, exec i s = .next t) →
    t.legacyShift = s.legacyShift ∧ t.wrapEdges = s.wrapEdges ∧ t.cpuHz = s.cpuHz ∧ t.width = s.width ∧
    t.height = s.height ∧ t.stackLimit = s.stackLimit ∧ t.mem.font = s.mem.font)

/-- VF: a flag-writing instruction leaves it exactly 0 or 1 (8XY4 to 8XY7 and 8XYE unless X is VF itself), and an
instruction that neither writes flags nor names VF as its destination leaves it alone (10_state.md section 2; the order of
the two writes is decision D10, log 17). -/
def Obligations.FlagRegisterIsWrittenByTheListedInstructions : Prop :=
  ∀ (i : Instr) (s t : State), exec i s = .next t →
    ((∃ x y, x ≠ VF ∧ (i = .addReg x y ∨ i = .subReg x y ∨ i = .shr x y ∨ i = .subn x y ∨ i = .shl x y)) ∨
      (∃ x, i = .addI x) ∨ (∃ x y n, i = .drw x y n) → t.readV VF = 0 ∨ t.readV VF = 1) ∧
    ((∀ x y, i ≠ .addReg x y ∧ i ≠ .subReg x y ∧ i ≠ .shr x y ∧ i ≠ .subn x y ∧ i ≠ .shl x y) →
      (∀ x, i ≠ .addI x) → (∀ x y n, i ≠ .drw x y n) →
      (∀ nn y, i ≠ .ldImm VF nn ∧ i ≠ .addImm VF nn ∧ i ≠ .rnd VF nn ∧ i ≠ .ldReg VF y ∧ i ≠ .orReg VF y ∧
        i ≠ .andReg VF y ∧ i ≠ .xorReg VF y) →
      i ≠ .ldVxDT VF → i ≠ .ldVxK VF → i ≠ .ldVxMem VF → t.readV VF = s.readV VF)

/-- Only skips, jumps, call, return and the blocked key wait move `pc`; every other instruction leaves the pre-advanced
value (10_state.md section 4). -/
def Obligations.OtherInstructionsLeaveThePc : Prop :=
  ∀ (i : Instr) (s t : State), exec i s = .next t →
    (∀ x y nn n nnn, i ≠ .seImm x nn ∧ i ≠ .sneImm x nn ∧ i ≠ .seReg x y n ∧ i ≠ .sneReg x y n ∧ i ≠ .skp x ∧
      i ≠ .sknp x ∧ i ≠ .ldVxK x ∧ i ≠ .jp nnn ∧ i ≠ .jpV0 nnn ∧ i ≠ .call nnn ∧ i ≠ .ret) → t.pc = s.pc

/-- LEGACY_SHIFT is the value supplied at reset, "affects 8XY6 and 8XYE and nothing else" (every other instruction does the
same under either value), and in the legacy form the shifts' results depend on register Y alone, in the modern form on
register X alone (R122). -/
def Obligations.LegacyShiftAffectsOnlyTheShifts : Prop :=
  (∀ (s t : State) (rom : List Byte) (legacy wrap : Bool) (hz : Nat),
    s.hostReset rom legacy wrap hz = .next t → t.legacyShift = legacy) ∧
  (∀ (i : Instr) (s t : State) (b : Bool), exec i s = .next t → (∀ x y, i ≠ .shr x y ∧ i ≠ .shl x y) →
    exec i { s with legacyShift := b } = .next { t with legacyShift := b }) ∧
  (∀ (x y : RegIdx) (s u : State), u = { s with v := u.v } →
    (if s.legacyShift then u.readV y = s.readV y else u.readV x = s.readV x) →
    (∃ t w, exec (.shr x y) s = .next t ∧ exec (.shr x y) u = .next w ∧ t.readV x = w.readV x ∧
      t.readV VF = w.readV VF) ∧
    (∃ t w, exec (.shl x y) s = .next t ∧ exec (.shl x y) u = .next w ∧ t.readV x = w.readV x ∧
      t.readV VF = w.readV VF))

/-- WRAP_EDGES is the value supplied at reset and "affects DXYN and nothing else": every other instruction does the same
under either value (R178); a sprite cell of DXYN lands modulo the surface with it, and without it no coordinate is reduced
and a cell off the surface is dropped (R173, R174; that the clip origin is not reduced is decision D12, log 18). -/
def Obligations.WrapEdgesAffectsOnlyDraw : Prop :=
  (∀ (s t : State) (rom : List Byte) (legacy wrap : Bool) (hz : Nat),
    s.hostReset rom legacy wrap hz = .next t → t.wrapEdges = wrap) ∧
  (∀ (i : Instr) (s t : State) (b : Bool), exec i s = .next t → (∀ x y n, i ≠ .drw x y n) →
    exec i { s with wrapEdges := b } = .next { t with wrapEdges := b }) ∧
  ∀ (s : State) (ox oy r c : Nat),
    { s with wrapEdges := true }.spriteTarget ox oy r c = some ((ox + c) % s.width, (oy + r) % s.height) ∧
    { s with wrapEdges := false }.spriteTarget ox oy r c =
      if ox + c < s.width ∧ oy + r < s.height then some (ox + c, oy + r) else none

/-- Output events are not state: neither an instruction nor a step reads the trace, each only appends to it, in the order
of emission (R232). -/
def Obligations.TraceIsOnlyAppendedTo : Prop :=
  (∀ (i : Instr) (s t : State), exec i s = .next t →
    ∃ events, t.trace = s.trace ++ events ∧
      ∀ earlier : List Event, exec i { s with trace := earlier } = .next { t with trace := earlier ++ events }) ∧
  (∀ s t : State, step s = .next t →
    ∃ events, t.trace = s.trace ++ events ∧
      ∀ earlier : List Event, step { s with trace := earlier } = .next { t with trace := earlier ++ events })
end

