-- ==== Sys2Proof/Laws/Memory.lean ====
section
/-! SUPPORT. The memory image: a read after a write, and that every operation keeps the canonical form. -/

namespace Sys2Proof.Machine

theorem findCell_putCell (a k : Nat) (b : Byte) (cells : List Host.Cell) :
    findCell k (putCell a b cells) = if k = a then some b else findCell k cells := by
  induction cells with
  | nil => rfl
  | cons c rest ih =>
    obtain ⟨j, e⟩ := c
    simp only [putCell]
    split_ifs <;> simp_all [findCell]

theorem findCell_dropCell (a k : Nat) (cells : List Host.Cell) :
    findCell k (dropCell a cells) = if k = a then none else findCell k cells := by
  induction cells with
  | nil => simp [dropCell, findCell]
  | cons c rest ih =>
    obtain ⟨j, e⟩ := c
    simp only [dropCell] at ih
    by_cases h : j = a <;> simp_all [dropCell, findCell]
    grind

@[simp] theorem Memory.write_font (m : Memory) (a : Nat) (v : Byte) : (m.write a v).font = m.font := by
  unfold Memory.write; split <;> rfl

@[simp] theorem Memory.writeBytes_font (m : Memory) (a : Nat) (bs : List Byte) :
    (m.writeBytes a bs).font = m.font := by
  induction bs generalizing m a with
  | nil => rfl
  | cons b rest ih => simp [Memory.writeBytes, ih]

@[simp] theorem Memory.read_mod (m : Memory) (a : Nat) : m.read (a % memSize) = m.read a := by
  simp [Memory.read]

/-- A read after a single-byte write (R52, R53). -/
theorem Memory.read_write (m : Memory) (a b : Nat) (v : Byte) :
    (m.write a v).read b = if b % memSize = a % memSize then v else m.read b := by
  unfold Memory.write Memory.read
  split <;> simp only [findCell_putCell, findCell_dropCell] <;> split <;> simp_all

theorem Memory.read_write_same (m : Memory) (a : Nat) (v : Byte) : (m.write a v).read a = v := by
  simp [Memory.read_write]

theorem Memory.read_write_of_ne (m : Memory) {a b : Nat} (v : Byte) (h : b % memSize ≠ a % memSize) :
    (m.write a v).read b = m.read b := by
  simp [Memory.read_write, h]

/-- A read outside the addresses of a multi-byte write. -/
theorem Memory.read_writeBytes_outside (m : Memory) (a b : Nat) (bs : List Byte)
    (h : ∀ k < bs.length, b % memSize ≠ (a + k) % memSize) : (m.writeBytes a bs).read b = m.read b := by
  induction bs generalizing m a with
  | nil => rfl
  | cons x rest ih =>
    have h0 : b % memSize ≠ a % memSize := by simpa using h 0 (by simp)
    rw [Memory.writeBytes, ih, Memory.read_write_of_ne _ _ h0]
    intro k hk
    have := h (k + 1) (by simp; omega)
    rwa [show a + (k + 1) = a + 1 + k by omega] at this

/-- A read inside a multi-byte write that does not wrap onto itself. -/
theorem Memory.read_writeBytes_inside (m : Memory) (a k : Nat) (bs : List Byte) (hk : k < bs.length)
    (hlen : bs.length ≤ memSize) : (m.writeBytes a bs).read (a + k) = bs[k] := by
  induction bs generalizing m a k with
  | nil => simp at hk
  | cons x rest ih =>
    rw [Memory.writeBytes]
    simp only [List.length_cons] at hk hlen
    cases k with
    | zero =>
      rw [Memory.read_writeBytes_outside]
      · simp [Memory.read_write]
      · intro j hj
        simp only [memSize] at hlen ⊢
        omega
    | succ k =>
      rw [show a + (k + 1) = a + 1 + k by omega, ih _ _ _ (by omega) (by omega)]
      simp

theorem mem_putCell {a : Nat} {b : Byte} {cells : List Host.Cell} {c : Host.Cell} (h : c ∈ putCell a b cells) :
    c = (a, b) ∨ c ∈ cells := by
  induction cells with
  | nil => simpa [putCell] using h
  | cons d rest ih =>
    obtain ⟨j, e⟩ := d
    simp only [putCell] at h
    split_ifs at h <;> simp_all <;> grind

theorem putCell_rising {a : Nat} {b : Byte} {cells : List Host.Cell}
    (h : cells.Pairwise (fun p q => p.1 < q.1)) : (putCell a b cells).Pairwise (fun p q => p.1 < q.1) := by
  induction cells with
  | nil => simp [putCell]
  | cons d rest ih =>
    obtain ⟨j, e⟩ := d
    rw [List.pairwise_cons] at h
    simp only [putCell]
    split_ifs with h1 h2
    · refine List.pairwise_cons.2 ⟨?_, List.pairwise_cons.2 h⟩
      intro c hc
      rcases List.mem_cons.1 hc with rfl | hc
      · exact h1
      · exact lt_trans h1 (h.1 c hc)
    · exact List.pairwise_cons.2 ⟨fun c hc => h2 ▸ h.1 c hc, h.2⟩
    · refine List.pairwise_cons.2 ⟨?_, ih h.2⟩
      intro c hc
      rcases mem_putCell hc with rfl | hc
      · show j < a; omega
      · exact h.1 c hc

/-- A write keeps the canonical form. -/
theorem Memory.wf_write {m : Memory} (h : m.wf) (a : Nat) (v : Byte) : (m.write a v).wf := by
  obtain ⟨hs, hc⟩ := h
  unfold Memory.write
  split
  · exact ⟨hs.filter _, fun c hm => hc c (List.mem_filter.1 hm).1⟩
  · rename_i hv
    refine ⟨putCell_rising hs, fun c hm => ?_⟩
    rcases mem_putCell hm with rfl | hm
    · exact ⟨Nat.mod_lt _ (by decide), hv⟩
    · exact hc c hm

theorem Memory.wf_writeBytes {m : Memory} (h : m.wf) (a : Nat) (bs : List Byte) : (m.writeBytes a bs).wf := by
  induction bs generalizing m a with
  | nil => exact h
  | cons b rest ih => exact ih (Memory.wf_write h a b) _

/-- The memory image that Reset leaves is in canonical form. -/
theorem Memory.wf_afterReset (m : Memory) (rom : List Byte) : (m.afterReset rom).wf :=
  Memory.wf_writeBytes (by simp [Memory.wf]) _ _

/-- The memory of the machine after reset is in canonical form. -/
theorem State.wf_reset : State.reset.mem.wf := by decide

@[simp] theorem Memory.afterReset_font (m : Memory) (rom : List Byte) : (m.afterReset rom).font = m.font := by
  simp [Memory.afterReset]

/-- With nothing listed, memory reads as the background. -/
theorem Memory.read_empty (font : Vector Byte 80) (a : Nat) :
    ({ font := font, cells := [] } : Memory).read a = Memory.background font (a % memSize) := rfl

@[simp] theorem State.dumpRegs_font (s : State) (n : Nat) : (s.dumpRegs n).font = s.mem.font := by
  induction n with
  | zero => rfl
  | succ n ih => simp [State.dumpRegs, ih]

/-- A register dump keeps the canonical form. -/
theorem State.wf_dumpRegs {s : State} (h : s.mem.wf) (n : Nat) : (s.dumpRegs n).wf := by
  induction n with
  | zero => exact h
  | succ n ih => exact Memory.wf_write ih _ _

/-- A read outside the addresses of a register dump (R155). -/
theorem State.read_dumpRegs_outside (s : State) (n b : Nat)
    (h : ∀ k < n, b % memSize ≠ s.effectiveAddress k % memSize) : (s.dumpRegs n).read b = s.mem.read b := by
  induction n with
  | zero => rfl
  | succ n ih =>
    rw [State.dumpRegs, Memory.read_write_of_ne _ _ (h n (by omega)), ih (fun k hk => h k (by omega))]

/-- A read inside a register dump (R155). -/
theorem State.read_dumpRegs_inside (s : State) {n k : Nat} (hk : k < n) (hn : n ≤ 16) :
    (s.dumpRegs n).read (s.effectiveAddress k) = s.readV (BitVec.ofNat 4 k) := by
  induction n with
  | zero => omega
  | succ n ih =>
    rw [State.dumpRegs, Memory.read_write]
    split
    · rename_i h
      have : k = n := by
        simp only [State.effectiveAddress, memSize] at h
        omega
      rw [this]
    · rename_i h
      refine ih ?_ (by omega)
      rcases Nat.lt_or_ge k n with h' | h'
      · exact h'
      · exact absurd (by rw [show k = n by omega]) h

end Sys2Proof.Machine
end

