-- ==== Sys2Proof/Laws/State.lean ====
section
/-! SUPPORT. What each update of State does to each field, one lemma per field, so that no proof unfolds a record
update. -/

namespace Sys2Proof.Machine

/-! ### setV -/

@[simp] theorem State.setV_v (s : State) (x : RegIdx) (b : Byte) : (s.setV x b).v = s.v.set x.toNat b x.isLt := rfl
@[simp] theorem State.setV_i (s : State) (x : RegIdx) (b : Byte) : (s.setV x b).i = s.i := rfl
@[simp] theorem State.setV_pc (s : State) (x : RegIdx) (b : Byte) : (s.setV x b).pc = s.pc := rfl
@[simp] theorem State.setV_stack (s : State) (x : RegIdx) (b : Byte) : (s.setV x b).stack = s.stack := rfl
@[simp] theorem State.setV_mem (s : State) (x : RegIdx) (b : Byte) : (s.setV x b).mem = s.mem := rfl
@[simp] theorem State.setV_display (s : State) (x : RegIdx) (b : Byte) : (s.setV x b).display = s.display := rfl
@[simp] theorem State.setV_dt (s : State) (x : RegIdx) (b : Byte) : (s.setV x b).dt = s.dt := rfl
@[simp] theorem State.setV_legacyShift (s : State) (x : RegIdx) (b : Byte) : (s.setV x b).legacyShift = s.legacyShift := rfl
@[simp] theorem State.setV_wrapEdges (s : State) (x : RegIdx) (b : Byte) : (s.setV x b).wrapEdges = s.wrapEdges := rfl
@[simp] theorem State.setV_cpuHz (s : State) (x : RegIdx) (b : Byte) : (s.setV x b).cpuHz = s.cpuHz := rfl
@[simp] theorem State.setV_accCpu (s : State) (x : RegIdx) (b : Byte) : (s.setV x b).accCpu = s.accCpu := rfl
@[simp] theorem State.setV_accDelay (s : State) (x : RegIdx) (b : Byte) : (s.setV x b).accDelay = s.accDelay := rfl
@[simp] theorem State.setV_halted (s : State) (x : RegIdx) (b : Byte) : (s.setV x b).halted = s.halted := rfl
@[simp] theorem State.setV_width (s : State) (x : RegIdx) (b : Byte) : (s.setV x b).width = s.width := rfl
@[simp] theorem State.setV_height (s : State) (x : RegIdx) (b : Byte) : (s.setV x b).height = s.height := rfl
@[simp] theorem State.setV_stackLimit (s : State) (x : RegIdx) (b : Byte) : (s.setV x b).stackLimit = s.stackLimit := rfl
@[simp] theorem State.setV_dueSteps (s : State) (x : RegIdx) (b : Byte) : (s.setV x b).dueSteps = s.dueSteps := rfl
@[simp] theorem State.setV_keysHeld (s : State) (x : RegIdx) (b : Byte) : (s.setV x b).keysHeld = s.keysHeld := rfl
@[simp] theorem State.setV_keysNew (s : State) (x : RegIdx) (b : Byte) : (s.setV x b).keysNew = s.keysNew := rfl
@[simp] theorem State.setV_rnd (s : State) (x : RegIdx) (b : Byte) : (s.setV x b).rnd = s.rnd := rfl
@[simp] theorem State.setV_keyPick (s : State) (x : RegIdx) (b : Byte) : (s.setV x b).keyPick = s.keyPick := rfl
@[simp] theorem State.setV_inputCount (s : State) (x : RegIdx) (b : Byte) : (s.setV x b).inputCount = s.inputCount := rfl
@[simp] theorem State.setV_trace (s : State) (x : RegIdx) (b : Byte) : (s.setV x b).trace = s.trace := rfl

/-! ### setI -/

@[simp] theorem State.setI_v (s : State) (w : Word) : (s.setI w).v = s.v := rfl
@[simp] theorem State.setI_i (s : State) (w : Word) : (s.setI w).i = w := rfl
@[simp] theorem State.setI_pc (s : State) (w : Word) : (s.setI w).pc = s.pc := rfl
@[simp] theorem State.setI_stack (s : State) (w : Word) : (s.setI w).stack = s.stack := rfl
@[simp] theorem State.setI_mem (s : State) (w : Word) : (s.setI w).mem = s.mem := rfl
@[simp] theorem State.setI_display (s : State) (w : Word) : (s.setI w).display = s.display := rfl
@[simp] theorem State.setI_dt (s : State) (w : Word) : (s.setI w).dt = s.dt := rfl
@[simp] theorem State.setI_legacyShift (s : State) (w : Word) : (s.setI w).legacyShift = s.legacyShift := rfl
@[simp] theorem State.setI_wrapEdges (s : State) (w : Word) : (s.setI w).wrapEdges = s.wrapEdges := rfl
@[simp] theorem State.setI_cpuHz (s : State) (w : Word) : (s.setI w).cpuHz = s.cpuHz := rfl
@[simp] theorem State.setI_accCpu (s : State) (w : Word) : (s.setI w).accCpu = s.accCpu := rfl
@[simp] theorem State.setI_accDelay (s : State) (w : Word) : (s.setI w).accDelay = s.accDelay := rfl
@[simp] theorem State.setI_halted (s : State) (w : Word) : (s.setI w).halted = s.halted := rfl
@[simp] theorem State.setI_width (s : State) (w : Word) : (s.setI w).width = s.width := rfl
@[simp] theorem State.setI_height (s : State) (w : Word) : (s.setI w).height = s.height := rfl
@[simp] theorem State.setI_stackLimit (s : State) (w : Word) : (s.setI w).stackLimit = s.stackLimit := rfl
@[simp] theorem State.setI_dueSteps (s : State) (w : Word) : (s.setI w).dueSteps = s.dueSteps := rfl
@[simp] theorem State.setI_keysHeld (s : State) (w : Word) : (s.setI w).keysHeld = s.keysHeld := rfl
@[simp] theorem State.setI_keysNew (s : State) (w : Word) : (s.setI w).keysNew = s.keysNew := rfl
@[simp] theorem State.setI_rnd (s : State) (w : Word) : (s.setI w).rnd = s.rnd := rfl
@[simp] theorem State.setI_keyPick (s : State) (w : Word) : (s.setI w).keyPick = s.keyPick := rfl
@[simp] theorem State.setI_inputCount (s : State) (w : Word) : (s.setI w).inputCount = s.inputCount := rfl
@[simp] theorem State.setI_trace (s : State) (w : Word) : (s.setI w).trace = s.trace := rfl

/-! ### setDt -/

@[simp] theorem State.setDt_v (s : State) (b : Byte) : (s.setDt b).v = s.v := rfl
@[simp] theorem State.setDt_i (s : State) (b : Byte) : (s.setDt b).i = s.i := rfl
@[simp] theorem State.setDt_pc (s : State) (b : Byte) : (s.setDt b).pc = s.pc := rfl
@[simp] theorem State.setDt_stack (s : State) (b : Byte) : (s.setDt b).stack = s.stack := rfl
@[simp] theorem State.setDt_mem (s : State) (b : Byte) : (s.setDt b).mem = s.mem := rfl
@[simp] theorem State.setDt_display (s : State) (b : Byte) : (s.setDt b).display = s.display := rfl
@[simp] theorem State.setDt_dt (s : State) (b : Byte) : (s.setDt b).dt = b := rfl
@[simp] theorem State.setDt_legacyShift (s : State) (b : Byte) : (s.setDt b).legacyShift = s.legacyShift := rfl
@[simp] theorem State.setDt_wrapEdges (s : State) (b : Byte) : (s.setDt b).wrapEdges = s.wrapEdges := rfl
@[simp] theorem State.setDt_cpuHz (s : State) (b : Byte) : (s.setDt b).cpuHz = s.cpuHz := rfl
@[simp] theorem State.setDt_accCpu (s : State) (b : Byte) : (s.setDt b).accCpu = s.accCpu := rfl
@[simp] theorem State.setDt_accDelay (s : State) (b : Byte) : (s.setDt b).accDelay = s.accDelay := rfl
@[simp] theorem State.setDt_halted (s : State) (b : Byte) : (s.setDt b).halted = s.halted := rfl
@[simp] theorem State.setDt_width (s : State) (b : Byte) : (s.setDt b).width = s.width := rfl
@[simp] theorem State.setDt_height (s : State) (b : Byte) : (s.setDt b).height = s.height := rfl
@[simp] theorem State.setDt_stackLimit (s : State) (b : Byte) : (s.setDt b).stackLimit = s.stackLimit := rfl
@[simp] theorem State.setDt_dueSteps (s : State) (b : Byte) : (s.setDt b).dueSteps = s.dueSteps := rfl
@[simp] theorem State.setDt_keysHeld (s : State) (b : Byte) : (s.setDt b).keysHeld = s.keysHeld := rfl
@[simp] theorem State.setDt_keysNew (s : State) (b : Byte) : (s.setDt b).keysNew = s.keysNew := rfl
@[simp] theorem State.setDt_rnd (s : State) (b : Byte) : (s.setDt b).rnd = s.rnd := rfl
@[simp] theorem State.setDt_keyPick (s : State) (b : Byte) : (s.setDt b).keyPick = s.keyPick := rfl
@[simp] theorem State.setDt_inputCount (s : State) (b : Byte) : (s.setDt b).inputCount = s.inputCount := rfl
@[simp] theorem State.setDt_trace (s : State) (b : Byte) : (s.setDt b).trace = s.trace := rfl

/-! ### setPc -/

@[simp] theorem State.setPc_v (s : State) (target : Nat) : (s.setPc target).v = s.v := rfl
@[simp] theorem State.setPc_i (s : State) (target : Nat) : (s.setPc target).i = s.i := rfl
@[simp] theorem State.setPc_pc (s : State) (target : Nat) : (s.setPc target).pc = BitVec.ofNat 16 (target % memSize) := rfl
@[simp] theorem State.setPc_stack (s : State) (target : Nat) : (s.setPc target).stack = s.stack := rfl
@[simp] theorem State.setPc_mem (s : State) (target : Nat) : (s.setPc target).mem = s.mem := rfl
@[simp] theorem State.setPc_display (s : State) (target : Nat) : (s.setPc target).display = s.display := rfl
@[simp] theorem State.setPc_dt (s : State) (target : Nat) : (s.setPc target).dt = s.dt := rfl
@[simp] theorem State.setPc_legacyShift (s : State) (target : Nat) : (s.setPc target).legacyShift = s.legacyShift := rfl
@[simp] theorem State.setPc_wrapEdges (s : State) (target : Nat) : (s.setPc target).wrapEdges = s.wrapEdges := rfl
@[simp] theorem State.setPc_cpuHz (s : State) (target : Nat) : (s.setPc target).cpuHz = s.cpuHz := rfl
@[simp] theorem State.setPc_accCpu (s : State) (target : Nat) : (s.setPc target).accCpu = s.accCpu := rfl
@[simp] theorem State.setPc_accDelay (s : State) (target : Nat) : (s.setPc target).accDelay = s.accDelay := rfl
@[simp] theorem State.setPc_halted (s : State) (target : Nat) : (s.setPc target).halted = s.halted := rfl
@[simp] theorem State.setPc_width (s : State) (target : Nat) : (s.setPc target).width = s.width := rfl
@[simp] theorem State.setPc_height (s : State) (target : Nat) : (s.setPc target).height = s.height := rfl
@[simp] theorem State.setPc_stackLimit (s : State) (target : Nat) : (s.setPc target).stackLimit = s.stackLimit := rfl
@[simp] theorem State.setPc_dueSteps (s : State) (target : Nat) : (s.setPc target).dueSteps = s.dueSteps := rfl
@[simp] theorem State.setPc_keysHeld (s : State) (target : Nat) : (s.setPc target).keysHeld = s.keysHeld := rfl
@[simp] theorem State.setPc_keysNew (s : State) (target : Nat) : (s.setPc target).keysNew = s.keysNew := rfl
@[simp] theorem State.setPc_rnd (s : State) (target : Nat) : (s.setPc target).rnd = s.rnd := rfl
@[simp] theorem State.setPc_keyPick (s : State) (target : Nat) : (s.setPc target).keyPick = s.keyPick := rfl
@[simp] theorem State.setPc_inputCount (s : State) (target : Nat) : (s.setPc target).inputCount = s.inputCount := rfl
@[simp] theorem State.setPc_trace (s : State) (target : Nat) : (s.setPc target).trace = s.trace := rfl

/-! ### setMem -/

@[simp] theorem State.setMem_v (s : State) (m : Memory) : (s.setMem m).v = s.v := rfl
@[simp] theorem State.setMem_i (s : State) (m : Memory) : (s.setMem m).i = s.i := rfl
@[simp] theorem State.setMem_pc (s : State) (m : Memory) : (s.setMem m).pc = s.pc := rfl
@[simp] theorem State.setMem_stack (s : State) (m : Memory) : (s.setMem m).stack = s.stack := rfl
@[simp] theorem State.setMem_mem (s : State) (m : Memory) : (s.setMem m).mem = m := rfl
@[simp] theorem State.setMem_display (s : State) (m : Memory) : (s.setMem m).display = s.display := rfl
@[simp] theorem State.setMem_dt (s : State) (m : Memory) : (s.setMem m).dt = s.dt := rfl
@[simp] theorem State.setMem_legacyShift (s : State) (m : Memory) : (s.setMem m).legacyShift = s.legacyShift := rfl
@[simp] theorem State.setMem_wrapEdges (s : State) (m : Memory) : (s.setMem m).wrapEdges = s.wrapEdges := rfl
@[simp] theorem State.setMem_cpuHz (s : State) (m : Memory) : (s.setMem m).cpuHz = s.cpuHz := rfl
@[simp] theorem State.setMem_accCpu (s : State) (m : Memory) : (s.setMem m).accCpu = s.accCpu := rfl
@[simp] theorem State.setMem_accDelay (s : State) (m : Memory) : (s.setMem m).accDelay = s.accDelay := rfl
@[simp] theorem State.setMem_halted (s : State) (m : Memory) : (s.setMem m).halted = s.halted := rfl
@[simp] theorem State.setMem_width (s : State) (m : Memory) : (s.setMem m).width = s.width := rfl
@[simp] theorem State.setMem_height (s : State) (m : Memory) : (s.setMem m).height = s.height := rfl
@[simp] theorem State.setMem_stackLimit (s : State) (m : Memory) : (s.setMem m).stackLimit = s.stackLimit := rfl
@[simp] theorem State.setMem_dueSteps (s : State) (m : Memory) : (s.setMem m).dueSteps = s.dueSteps := rfl
@[simp] theorem State.setMem_keysHeld (s : State) (m : Memory) : (s.setMem m).keysHeld = s.keysHeld := rfl
@[simp] theorem State.setMem_keysNew (s : State) (m : Memory) : (s.setMem m).keysNew = s.keysNew := rfl
@[simp] theorem State.setMem_rnd (s : State) (m : Memory) : (s.setMem m).rnd = s.rnd := rfl
@[simp] theorem State.setMem_keyPick (s : State) (m : Memory) : (s.setMem m).keyPick = s.keyPick := rfl
@[simp] theorem State.setMem_inputCount (s : State) (m : Memory) : (s.setMem m).inputCount = s.inputCount := rfl
@[simp] theorem State.setMem_trace (s : State) (m : Memory) : (s.setMem m).trace = s.trace := rfl

/-! ### setDisplay -/

@[simp] theorem State.setDisplay_v (s : State) (d : List (List Bool)) : (s.setDisplay d).v = s.v := rfl
@[simp] theorem State.setDisplay_i (s : State) (d : List (List Bool)) : (s.setDisplay d).i = s.i := rfl
@[simp] theorem State.setDisplay_pc (s : State) (d : List (List Bool)) : (s.setDisplay d).pc = s.pc := rfl
@[simp] theorem State.setDisplay_stack (s : State) (d : List (List Bool)) : (s.setDisplay d).stack = s.stack := rfl
@[simp] theorem State.setDisplay_mem (s : State) (d : List (List Bool)) : (s.setDisplay d).mem = s.mem := rfl
@[simp] theorem State.setDisplay_display (s : State) (d : List (List Bool)) : (s.setDisplay d).display = d := rfl
@[simp] theorem State.setDisplay_dt (s : State) (d : List (List Bool)) : (s.setDisplay d).dt = s.dt := rfl
@[simp] theorem State.setDisplay_legacyShift (s : State) (d : List (List Bool)) : (s.setDisplay d).legacyShift = s.legacyShift := rfl
@[simp] theorem State.setDisplay_wrapEdges (s : State) (d : List (List Bool)) : (s.setDisplay d).wrapEdges = s.wrapEdges := rfl
@[simp] theorem State.setDisplay_cpuHz (s : State) (d : List (List Bool)) : (s.setDisplay d).cpuHz = s.cpuHz := rfl
@[simp] theorem State.setDisplay_accCpu (s : State) (d : List (List Bool)) : (s.setDisplay d).accCpu = s.accCpu := rfl
@[simp] theorem State.setDisplay_accDelay (s : State) (d : List (List Bool)) : (s.setDisplay d).accDelay = s.accDelay := rfl
@[simp] theorem State.setDisplay_halted (s : State) (d : List (List Bool)) : (s.setDisplay d).halted = s.halted := rfl
@[simp] theorem State.setDisplay_width (s : State) (d : List (List Bool)) : (s.setDisplay d).width = s.width := rfl
@[simp] theorem State.setDisplay_height (s : State) (d : List (List Bool)) : (s.setDisplay d).height = s.height := rfl
@[simp] theorem State.setDisplay_stackLimit (s : State) (d : List (List Bool)) : (s.setDisplay d).stackLimit = s.stackLimit := rfl
@[simp] theorem State.setDisplay_dueSteps (s : State) (d : List (List Bool)) : (s.setDisplay d).dueSteps = s.dueSteps := rfl
@[simp] theorem State.setDisplay_keysHeld (s : State) (d : List (List Bool)) : (s.setDisplay d).keysHeld = s.keysHeld := rfl
@[simp] theorem State.setDisplay_keysNew (s : State) (d : List (List Bool)) : (s.setDisplay d).keysNew = s.keysNew := rfl
@[simp] theorem State.setDisplay_rnd (s : State) (d : List (List Bool)) : (s.setDisplay d).rnd = s.rnd := rfl
@[simp] theorem State.setDisplay_keyPick (s : State) (d : List (List Bool)) : (s.setDisplay d).keyPick = s.keyPick := rfl
@[simp] theorem State.setDisplay_inputCount (s : State) (d : List (List Bool)) : (s.setDisplay d).inputCount = s.inputCount := rfl
@[simp] theorem State.setDisplay_trace (s : State) (d : List (List Bool)) : (s.setDisplay d).trace = s.trace := rfl

/-! ### emit -/

@[simp] theorem State.emit_v (s : State) (es : List Event) : (s.emit es).v = s.v := rfl
@[simp] theorem State.emit_i (s : State) (es : List Event) : (s.emit es).i = s.i := rfl
@[simp] theorem State.emit_pc (s : State) (es : List Event) : (s.emit es).pc = s.pc := rfl
@[simp] theorem State.emit_stack (s : State) (es : List Event) : (s.emit es).stack = s.stack := rfl
@[simp] theorem State.emit_mem (s : State) (es : List Event) : (s.emit es).mem = s.mem := rfl
@[simp] theorem State.emit_display (s : State) (es : List Event) : (s.emit es).display = s.display := rfl
@[simp] theorem State.emit_dt (s : State) (es : List Event) : (s.emit es).dt = s.dt := rfl
@[simp] theorem State.emit_legacyShift (s : State) (es : List Event) : (s.emit es).legacyShift = s.legacyShift := rfl
@[simp] theorem State.emit_wrapEdges (s : State) (es : List Event) : (s.emit es).wrapEdges = s.wrapEdges := rfl
@[simp] theorem State.emit_cpuHz (s : State) (es : List Event) : (s.emit es).cpuHz = s.cpuHz := rfl
@[simp] theorem State.emit_accCpu (s : State) (es : List Event) : (s.emit es).accCpu = s.accCpu := rfl
@[simp] theorem State.emit_accDelay (s : State) (es : List Event) : (s.emit es).accDelay = s.accDelay := rfl
@[simp] theorem State.emit_halted (s : State) (es : List Event) : (s.emit es).halted = s.halted := rfl
@[simp] theorem State.emit_width (s : State) (es : List Event) : (s.emit es).width = s.width := rfl
@[simp] theorem State.emit_height (s : State) (es : List Event) : (s.emit es).height = s.height := rfl
@[simp] theorem State.emit_stackLimit (s : State) (es : List Event) : (s.emit es).stackLimit = s.stackLimit := rfl
@[simp] theorem State.emit_dueSteps (s : State) (es : List Event) : (s.emit es).dueSteps = s.dueSteps := rfl
@[simp] theorem State.emit_keysHeld (s : State) (es : List Event) : (s.emit es).keysHeld = s.keysHeld := rfl
@[simp] theorem State.emit_keysNew (s : State) (es : List Event) : (s.emit es).keysNew = s.keysNew := rfl
@[simp] theorem State.emit_rnd (s : State) (es : List Event) : (s.emit es).rnd = s.rnd := rfl
@[simp] theorem State.emit_keyPick (s : State) (es : List Event) : (s.emit es).keyPick = s.keyPick := rfl
@[simp] theorem State.emit_inputCount (s : State) (es : List Event) : (s.emit es).inputCount = s.inputCount := rfl
@[simp] theorem State.emit_trace (s : State) (es : List Event) : (s.emit es).trace = s.trace ++ es := rfl

/-! ### raise -/

@[simp] theorem State.raise_v (s : State) (c : Condition) : (s.raise c).v = s.v := rfl
@[simp] theorem State.raise_i (s : State) (c : Condition) : (s.raise c).i = s.i := rfl
@[simp] theorem State.raise_pc (s : State) (c : Condition) : (s.raise c).pc = s.pc := rfl
@[simp] theorem State.raise_stack (s : State) (c : Condition) : (s.raise c).stack = s.stack := rfl
@[simp] theorem State.raise_mem (s : State) (c : Condition) : (s.raise c).mem = s.mem := rfl
@[simp] theorem State.raise_display (s : State) (c : Condition) : (s.raise c).display = s.display := rfl
@[simp] theorem State.raise_dt (s : State) (c : Condition) : (s.raise c).dt = s.dt := rfl
@[simp] theorem State.raise_legacyShift (s : State) (c : Condition) : (s.raise c).legacyShift = s.legacyShift := rfl
@[simp] theorem State.raise_wrapEdges (s : State) (c : Condition) : (s.raise c).wrapEdges = s.wrapEdges := rfl
@[simp] theorem State.raise_cpuHz (s : State) (c : Condition) : (s.raise c).cpuHz = s.cpuHz := rfl
@[simp] theorem State.raise_accCpu (s : State) (c : Condition) : (s.raise c).accCpu = s.accCpu := rfl
@[simp] theorem State.raise_accDelay (s : State) (c : Condition) : (s.raise c).accDelay = s.accDelay := rfl
@[simp] theorem State.raise_halted (s : State) (c : Condition) : (s.raise c).halted = some c := rfl
@[simp] theorem State.raise_width (s : State) (c : Condition) : (s.raise c).width = s.width := rfl
@[simp] theorem State.raise_height (s : State) (c : Condition) : (s.raise c).height = s.height := rfl
@[simp] theorem State.raise_stackLimit (s : State) (c : Condition) : (s.raise c).stackLimit = s.stackLimit := rfl
@[simp] theorem State.raise_dueSteps (s : State) (c : Condition) : (s.raise c).dueSteps = 0 := rfl
@[simp] theorem State.raise_keysHeld (s : State) (c : Condition) : (s.raise c).keysHeld = s.keysHeld := rfl
@[simp] theorem State.raise_keysNew (s : State) (c : Condition) : (s.raise c).keysNew = s.keysNew := rfl
@[simp] theorem State.raise_rnd (s : State) (c : Condition) : (s.raise c).rnd = s.rnd := rfl
@[simp] theorem State.raise_keyPick (s : State) (c : Condition) : (s.raise c).keyPick = s.keyPick := rfl
@[simp] theorem State.raise_inputCount (s : State) (c : Condition) : (s.raise c).inputCount = s.inputCount := rfl
@[simp] theorem State.raise_trace (s : State) (c : Condition) : (s.raise c).trace = s.trace ++ [.fault c] := rfl

/-! ### pollInputs -/

@[simp] theorem State.pollInputs_v (s : State) : (s.pollInputs).v = s.v := rfl
@[simp] theorem State.pollInputs_i (s : State) : (s.pollInputs).i = s.i := rfl
@[simp] theorem State.pollInputs_pc (s : State) : (s.pollInputs).pc = s.pc := rfl
@[simp] theorem State.pollInputs_stack (s : State) : (s.pollInputs).stack = s.stack := rfl
@[simp] theorem State.pollInputs_mem (s : State) : (s.pollInputs).mem = s.mem := rfl
@[simp] theorem State.pollInputs_display (s : State) : (s.pollInputs).display = s.display := rfl
@[simp] theorem State.pollInputs_dt (s : State) : (s.pollInputs).dt = s.dt := rfl
@[simp] theorem State.pollInputs_legacyShift (s : State) : (s.pollInputs).legacyShift = s.legacyShift := rfl
@[simp] theorem State.pollInputs_wrapEdges (s : State) : (s.pollInputs).wrapEdges = s.wrapEdges := rfl
@[simp] theorem State.pollInputs_cpuHz (s : State) : (s.pollInputs).cpuHz = s.cpuHz := rfl
@[simp] theorem State.pollInputs_accCpu (s : State) : (s.pollInputs).accCpu = s.accCpu := rfl
@[simp] theorem State.pollInputs_accDelay (s : State) : (s.pollInputs).accDelay = s.accDelay := rfl
@[simp] theorem State.pollInputs_halted (s : State) : (s.pollInputs).halted = s.halted := rfl
@[simp] theorem State.pollInputs_width (s : State) : (s.pollInputs).width = s.width := rfl
@[simp] theorem State.pollInputs_height (s : State) : (s.pollInputs).height = s.height := rfl
@[simp] theorem State.pollInputs_stackLimit (s : State) : (s.pollInputs).stackLimit = s.stackLimit := rfl
@[simp] theorem State.pollInputs_dueSteps (s : State) : (s.pollInputs).dueSteps = s.dueSteps := rfl
@[simp] theorem State.pollInputs_keysHeld (s : State) : (s.pollInputs).keysHeld = Config.keysHeld s.inputCount := rfl
@[simp] theorem State.pollInputs_keysNew (s : State) : (s.pollInputs).keysNew = Config.keysNew s.inputCount := rfl
@[simp] theorem State.pollInputs_rnd (s : State) : (s.pollInputs).rnd = Config.drawByte s.inputCount := rfl
@[simp] theorem State.pollInputs_keyPick (s : State) : (s.pollInputs).keyPick = Config.keyPick s.inputCount := rfl
@[simp] theorem State.pollInputs_inputCount (s : State) : (s.pollInputs).inputCount = s.inputCount + 1 := rfl
@[simp] theorem State.pollInputs_trace (s : State) : (s.pollInputs).trace = s.trace := rfl

/-! ### takeDue -/

@[simp] theorem State.takeDue_v (s : State) : (s.takeDue).v = s.v := rfl
@[simp] theorem State.takeDue_i (s : State) : (s.takeDue).i = s.i := rfl
@[simp] theorem State.takeDue_pc (s : State) : (s.takeDue).pc = s.pc := rfl
@[simp] theorem State.takeDue_stack (s : State) : (s.takeDue).stack = s.stack := rfl
@[simp] theorem State.takeDue_mem (s : State) : (s.takeDue).mem = s.mem := rfl
@[simp] theorem State.takeDue_display (s : State) : (s.takeDue).display = s.display := rfl
@[simp] theorem State.takeDue_dt (s : State) : (s.takeDue).dt = s.dt := rfl
@[simp] theorem State.takeDue_legacyShift (s : State) : (s.takeDue).legacyShift = s.legacyShift := rfl
@[simp] theorem State.takeDue_wrapEdges (s : State) : (s.takeDue).wrapEdges = s.wrapEdges := rfl
@[simp] theorem State.takeDue_cpuHz (s : State) : (s.takeDue).cpuHz = s.cpuHz := rfl
@[simp] theorem State.takeDue_accCpu (s : State) : (s.takeDue).accCpu = s.accCpu := rfl
@[simp] theorem State.takeDue_accDelay (s : State) : (s.takeDue).accDelay = s.accDelay := rfl
@[simp] theorem State.takeDue_halted (s : State) : (s.takeDue).halted = s.halted := rfl
@[simp] theorem State.takeDue_width (s : State) : (s.takeDue).width = s.width := rfl
@[simp] theorem State.takeDue_height (s : State) : (s.takeDue).height = s.height := rfl
@[simp] theorem State.takeDue_stackLimit (s : State) : (s.takeDue).stackLimit = s.stackLimit := rfl
@[simp] theorem State.takeDue_dueSteps (s : State) : (s.takeDue).dueSteps = s.dueSteps - 1 := rfl
@[simp] theorem State.takeDue_keysHeld (s : State) : (s.takeDue).keysHeld = s.keysHeld := rfl
@[simp] theorem State.takeDue_keysNew (s : State) : (s.takeDue).keysNew = s.keysNew := rfl
@[simp] theorem State.takeDue_rnd (s : State) : (s.takeDue).rnd = s.rnd := rfl
@[simp] theorem State.takeDue_keyPick (s : State) : (s.takeDue).keyPick = s.keyPick := rfl
@[simp] theorem State.takeDue_inputCount (s : State) : (s.takeDue).inputCount = s.inputCount := rfl
@[simp] theorem State.takeDue_trace (s : State) : (s.takeDue).trace = s.trace := rfl

/-! ### beginUpdate -/

@[simp] theorem State.beginUpdate_v (s : State) (delta : Rat) : (s.beginUpdate delta).v = s.v := rfl
@[simp] theorem State.beginUpdate_i (s : State) (delta : Rat) : (s.beginUpdate delta).i = s.i := rfl
@[simp] theorem State.beginUpdate_pc (s : State) (delta : Rat) : (s.beginUpdate delta).pc = s.pc := rfl
@[simp] theorem State.beginUpdate_stack (s : State) (delta : Rat) : (s.beginUpdate delta).stack = s.stack := rfl
@[simp] theorem State.beginUpdate_mem (s : State) (delta : Rat) : (s.beginUpdate delta).mem = s.mem := rfl
@[simp] theorem State.beginUpdate_display (s : State) (delta : Rat) : (s.beginUpdate delta).display = s.display := rfl
@[simp] theorem State.beginUpdate_dt (s : State) (delta : Rat) : (s.beginUpdate delta).dt = decrementDt s.dt (dueTicks s.accDelay delta delayHz).1 := rfl
@[simp] theorem State.beginUpdate_legacyShift (s : State) (delta : Rat) : (s.beginUpdate delta).legacyShift = s.legacyShift := rfl
@[simp] theorem State.beginUpdate_wrapEdges (s : State) (delta : Rat) : (s.beginUpdate delta).wrapEdges = s.wrapEdges := rfl
@[simp] theorem State.beginUpdate_cpuHz (s : State) (delta : Rat) : (s.beginUpdate delta).cpuHz = s.cpuHz := rfl
@[simp] theorem State.beginUpdate_accCpu (s : State) (delta : Rat) : (s.beginUpdate delta).accCpu = (dueTicks s.accCpu delta s.cpuHz).2 := rfl
@[simp] theorem State.beginUpdate_accDelay (s : State) (delta : Rat) : (s.beginUpdate delta).accDelay = (dueTicks s.accDelay delta delayHz).2 := rfl
@[simp] theorem State.beginUpdate_halted (s : State) (delta : Rat) : (s.beginUpdate delta).halted = s.halted := rfl
@[simp] theorem State.beginUpdate_width (s : State) (delta : Rat) : (s.beginUpdate delta).width = s.width := rfl
@[simp] theorem State.beginUpdate_height (s : State) (delta : Rat) : (s.beginUpdate delta).height = s.height := rfl
@[simp] theorem State.beginUpdate_stackLimit (s : State) (delta : Rat) : (s.beginUpdate delta).stackLimit = s.stackLimit := rfl
@[simp] theorem State.beginUpdate_dueSteps (s : State) (delta : Rat) : (s.beginUpdate delta).dueSteps = (dueTicks s.accCpu delta s.cpuHz).1 := rfl
@[simp] theorem State.beginUpdate_keysHeld (s : State) (delta : Rat) : (s.beginUpdate delta).keysHeld = s.keysHeld := rfl
@[simp] theorem State.beginUpdate_keysNew (s : State) (delta : Rat) : (s.beginUpdate delta).keysNew = s.keysNew := rfl
@[simp] theorem State.beginUpdate_rnd (s : State) (delta : Rat) : (s.beginUpdate delta).rnd = s.rnd := rfl
@[simp] theorem State.beginUpdate_keyPick (s : State) (delta : Rat) : (s.beginUpdate delta).keyPick = s.keyPick := rfl
@[simp] theorem State.beginUpdate_inputCount (s : State) (delta : Rat) : (s.beginUpdate delta).inputCount = s.inputCount := rfl
@[simp] theorem State.beginUpdate_trace (s : State) (delta : Rat) : (s.beginUpdate delta).trace = s.trace := rfl

/-! ### The updates built from these -/

@[simp] theorem State.preAdvance_eq (s : State) : s.preAdvance = s.setPc (s.pc.toNat + 2) := rfl
@[simp] theorem State.skip_eq (s : State) : s.skip = s.setPc (s.pc.toNat + 2) := rfl
@[simp] theorem State.rewind_eq (s : State) : s.rewind = s.setPc (s.pc - 2).toNat := rfl
@[simp] theorem State.setFlag_eq (s : State) (flag : Byte) : s.setFlag flag = s.setV VF flag := rfl
@[simp] theorem State.skipIf_true (s : State) : s.skipIf true = s.skip := rfl
@[simp] theorem State.skipIf_false (s : State) : s.skipIf false = s := rfl

end Sys2Proof.Machine
end

