-- ==== Sys2Proof/Laws/Ops.lean ====
section
/-! SUPPORT. What the shared operations over registers, program counter, call stack and flags do, each said once. -/

namespace Sys2Proof.Machine

/-! ### Registers -/

/-- A read after a register write (R20). -/
theorem State.readV_setV (s : State) (x y : RegIdx) (b : Byte) :
    (s.setV x b).readV y = if y = x then b else s.readV y := by
  simp only [State.readV, State.setV, Vector.getElem_set, ← BitVec.toNat_inj, eq_comm]

@[simp] theorem State.readV_setV_same (s : State) (x : RegIdx) (b : Byte) : (s.setV x b).readV x = b := by
  simp [State.readV_setV]

theorem State.readV_setV_of_ne (s : State) {x y : RegIdx} (b : Byte) (h : y ≠ x) :
    (s.setV x b).readV y = s.readV y := by
  simp [State.readV_setV, h]

/-- Two states with the same register file read the same registers. -/
theorem State.readV_congr {s t : State} (h : t.v = s.v) (x : RegIdx) : t.readV x = s.readV x := by
  simp [State.readV, h]

@[simp] theorem State.readV_setI (s : State) (w : Word) (x : RegIdx) : (s.setI w).readV x = s.readV x := rfl
@[simp] theorem State.readV_setDt (s : State) (b : Byte) (x : RegIdx) : (s.setDt b).readV x = s.readV x := rfl
@[simp] theorem State.readV_setPc (s : State) (n : Nat) (x : RegIdx) : (s.setPc n).readV x = s.readV x := rfl
@[simp] theorem State.readV_setMem (s : State) (m : Memory) (x : RegIdx) : (s.setMem m).readV x = s.readV x := rfl
@[simp] theorem State.readV_setDisplay (s : State) (d : List (List Bool)) (x : RegIdx) :
    (s.setDisplay d).readV x = s.readV x := rfl
@[simp] theorem State.readV_emit (s : State) (es : List Event) (x : RegIdx) : (s.emit es).readV x = s.readV x := rfl
@[simp] theorem State.readV_raise (s : State) (c : Condition) (x : RegIdx) : (s.raise c).readV x = s.readV x := rfl

/-- What one register write does, as a frame. -/
theorem State.writesOnly_setV (s : State) (x : RegIdx) (b : Byte) : WritesOnly s (s.setV x b) x b :=
  ⟨by simp, fun _ h => State.readV_setV_of_ne s b h, rfl⟩

/-- What the two writes of R110 do: the result, computed from the registers with the flag in VF, lands last. -/
theorem State.writesResultAndFlag_flagThenResult (s : State) (x : RegIdx) (f : Byte) (result : State → Byte) :
    WritesResultAndFlag s (s.flagThenResult x f result) x (result (s.setV VF f)) f := by
  refine ⟨by simp [State.flagThenResult], fun h => ?_, fun r h1 h2 => ?_, rfl⟩
  · simp [State.flagThenResult, State.readV_setV, Ne.symm h]
  · simp [State.flagThenResult, State.readV_setV, h1, h2]

/-! ### Program counter -/

/-- Every write of `pc` keeps it in [0, 4095] (R24). -/
theorem State.setPc_toNat (s : State) (target : Nat) : (s.setPc target).pc.toNat = target % memSize := by
  have : target % memSize < 4096 := Nat.mod_lt _ (by decide)
  simp only [State.setPc_pc, BitVec.toNat_ofNat]
  omega

theorem State.setPc_inRange (s : State) (target : Nat) : (s.setPc target).pc.toNat < memSize := by
  rw [State.setPc_toNat]; exact Nat.mod_lt _ (by decide)

/-- The rewind undoes the pre-advance of an in-range `pc` (R193). -/
theorem State.rewind_preAdvance (s : State) (h : s.pc.toNat < memSize) : s.preAdvance.rewind.pc = s.pc := by
  apply BitVec.eq_of_toNat_eq
  simp only [State.rewind_eq, State.preAdvance_eq, State.setPc_toNat, BitVec.toNat_sub, memSize,
    show (2 : Word).toNat = 2 from rfl] at *
  omega

/-- After the pre-advance of an in-range `pc`, the recorded fetch address is the `pc` the Step began with (R103). -/
theorem State.fetchAddress_preAdvance (s : State) (h : s.pc.toNat < memSize) : s.preAdvance.fetchAddress = s.pc := by
  apply BitVec.eq_of_toNat_eq
  simp only [State.fetchAddress, State.preAdvance_eq, State.setPc_toNat, BitVec.toNat_ofNat, BitVec.toNat_sub,
    memSize, show (2 : Word).toNat = 2 from rfl] at *
  omega

/-- A skip writes `pc` alone, and only when its condition holds (R104, R138). -/
theorem State.skipIf_eq (s : State) (c : Bool) : s.skipIf c = if c then s.setPc (s.pc.toNat + 2) else s := by
  cases c <;> rfl

/-! ### Call stack -/

/-- Push fails exactly on a full bounded stack (R26). -/
theorem State.push_eq_none (s : State) (w : Word) : s.push w = none ↔ s.stackLimit = some s.stack.length := by
  unfold State.push; split <;> simp_all

/-- Push puts one entry on top and changes nothing else (R26). -/
theorem State.push_eq_some {s t : State} {w : Word} (h : s.push w = some t) :
    s.stackLimit ≠ some s.stack.length ∧ t = { s with stack := w :: s.stack } := by
  unfold State.push at h; split at h <;> simp_all

/-- Pop fails exactly on an empty stack (R27). -/
theorem State.pop_eq_none (s : State) : s.pop = none ↔ s.stack = [] := by
  unfold State.pop; split <;> simp_all

/-- Pop takes the top entry and changes nothing else (R27). -/
theorem State.pop_eq_some {s t : State} {w : Word} (h : s.pop = some (w, t)) :
    s.stack = w :: t.stack ∧ t = { s with stack := t.stack } := by
  unfold State.pop at h; split at h <;> simp_all
  obtain ⟨rfl, rfl⟩ := h; simp

/-! ### Register blocks -/

/-- Loading a block writes registers and nothing else (R156). -/
theorem State.loadRegs_frame (s : State) (n : Nat) : s.loadRegs n = { s with v := (s.loadRegs n).v } := by
  induction n with
  | zero => rfl
  | succ n ih =>
    rw [State.loadRegs, ih]; rfl

/-- The registers after loading the first n (R156). -/
theorem State.readV_loadRegs (s : State) {n : Nat} (hn : n ≤ 16) (r : RegIdx) :
    (s.loadRegs n).readV r = if r.toNat < n then s.mem.read (s.effectiveAddress r.toNat) else s.readV r := by
  induction n with
  | zero => simp [State.loadRegs]
  | succ n ih =>
    rw [State.loadRegs, State.readV_setV, ih (by omega)]
    have hr := r.isLt
    have : r = BitVec.ofNat 4 n ↔ r.toNat = n := by
      rw [← BitVec.toNat_inj, BitVec.toNat_ofNat]; omega
    simp only [this]
    by_cases h : r.toNat = n
    · simp [h]
    · have : r.toNat < n + 1 ↔ r.toNat < n := by omega
      simp only [h, if_false, this]

/-! ### Keys -/

/-- A code above 15 is never held (R196). -/
theorem State.keyHeld_of_ge (s : State) {code : Nat} (h : 16 ≤ code) : s.keyHeld code = false := by
  simp [State.keyHeld, BitVec.getLsbD_of_ge _ _ h]

theorem State.mem_newKeys (s : State) (k : Nat) : k ∈ s.newKeys ↔ k < 16 ∧ s.keysNew.getLsbD k = true := by
  simp [State.newKeys]

/-- FX0A takes a newly pressed key whenever there is one (R193). -/
theorem State.chosenKey_cases (s : State) :
    (s.chosenKey = none ∧ s.newKeys = []) ∨ ∃ k, s.chosenKey = some k ∧ k ∈ s.newKeys := by
  unfold State.chosenKey
  rcases h : s.newKeys with _ | ⟨a, rest⟩
  · left; simp
  · right
    have hlt : s.keyPick % (a :: rest).length < (a :: rest).length := Nat.mod_lt _ (by simp)
    exact ⟨(a :: rest)[s.keyPick % (a :: rest).length], List.getElem?_eq_getElem hlt, List.getElem_mem hlt⟩

/-! ### The start of a Step -/

/-- What is around the execute phase (R100): a due Step taken, inputs polled, `pc` pre-advanced, nothing else. -/
theorem State.beginStep_eq (s : State) : s.beginStep =
    { s with
      pc := BitVec.ofNat 16 ((s.pc.toNat + 2) % memSize), dueSteps := s.dueSteps - 1
      keysHeld := Config.keysHeld s.inputCount, keysNew := Config.keysNew s.inputCount
      rnd := Config.drawByte s.inputCount, keyPick := Config.keyPick s.inputCount
      inputCount := s.inputCount + 1 } := rfl

end Sys2Proof.Machine
end

