-- ==== Sys2Proof/Laws/Display.lean ====
section
/-! SUPPORT. The display surface: what a flip does to a pixel and to the shape, and what a sprite draw does, by induction
over its cells. -/

namespace Sys2Proof.Machine

theorem pixelAt_eq (d : List (List Bool)) (x y : Nat) : pixelAt d x y = ((d[y]?.getD [])[x]?).getD false := by
  simp [pixelAt, List.getD_eq_getElem?_getD]

/-- A flip changes exactly its own pixel, if that is on the surface (R172). -/
theorem pixelAt_flipPixel (d : List (List Bool)) (px py x y : Nat) :
    pixelAt (flipPixel d px py) x y
      = if (x, y) = (px, py) ∧ ∃ row, d[y]? = some row ∧ x < row.length then !pixelAt d x y else pixelAt d x y := by
  simp only [pixelAt_eq, flipPixel, List.getElem?_modify]
  rcases hrow : d[y]? with _ | row
  · simp
  · by_cases hy : py = y
    · subst hy
      by_cases hx : px = x
      · subst hx
        rcases Nat.lt_or_ge px row.length with h | h
        · simp [h]
        · simp [Nat.not_lt.2 h]
      · simp [hx, Ne.symm hx]
    · simp [hy, Ne.symm hy]

theorem flipPixel_length (d : List (List Bool)) (px py : Nat) : (flipPixel d px py).length = d.length := by
  simp [flipPixel]

/-- A flip keeps the length of every row. -/
theorem flipPixel_getElem?_length (d : List (List Bool)) (px py y : Nat) :
    (flipPixel d px py)[y]?.map List.length = d[y]?.map List.length := by
  simp only [flipPixel, List.getElem?_modify]
  rcases d[y]? with _ | row
  · rfl
  · by_cases h : py = y <;> simp [h]

theorem flipPixel_rows {d : List (List Bool)} {w : Nat} (h : ∀ row ∈ d, row.length = w) (px py : Nat) :
    ∀ row ∈ flipPixel d px py, row.length = w := by
  intro row hr
  obtain ⟨y, hy⟩ := List.mem_iff_getElem?.1 hr
  have := flipPixel_getElem?_length d px py y
  rw [hy] at this
  rcases hd : d[y]? with _ | row'
  · simp [hd] at this
  · rw [hd] at this
    simp only [Option.map_some, Option.some.injEq] at this
    rw [this]
    exact h row' (List.mem_of_getElem? hd)

theorem modify_not_modify_not (row : List Bool) (x : Nat) :
    (row.modify x (fun b => !b)).modify x (fun b => !b) = row := by
  apply List.ext_getElem?
  intro j
  simp only [List.getElem?_modify]
  rcases row[j]? with _ | b
  · rfl
  · by_cases h : x = j <;> simp [h]

theorem modify_not_comm (row : List Bool) (x z : Nat) :
    (row.modify x (fun b => !b)).modify z (fun b => !b) = (row.modify z (fun b => !b)).modify x (fun b => !b) := by
  apply List.ext_getElem?
  intro j
  simp only [List.getElem?_modify]
  rcases row[j]? with _ | b
  · rfl
  · by_cases h : x = j <;> by_cases h' : z = j <;> simp [h, h']

/-- Two flips of one pixel cancel (R177). -/
theorem flipPixel_flipPixel (d : List (List Bool)) (px py : Nat) : flipPixel (flipPixel d px py) px py = d := by
  apply List.ext_getElem?
  intro y
  simp only [flipPixel, List.getElem?_modify]
  rcases d[y]? with _ | row
  · rfl
  · by_cases h : py = y <;> simp [h, modify_not_modify_not]

/-- Flips commute. -/
theorem flipPixel_comm (d : List (List Bool)) (px py qx qy : Nat) :
    flipPixel (flipPixel d px py) qx qy = flipPixel (flipPixel d qx qy) px py := by
  apply List.ext_getElem?
  intro y
  simp only [flipPixel, List.getElem?_modify]
  rcases d[y]? with _ | row
  · rfl
  · by_cases h : py = y <;> by_cases h' : qy = y <;> simp [h, h', modify_not_comm row px qx]

/-! ### Drawing -/

/-- A sprite bit of 1 whose pixel is on the surface: the pixel it flips (R172). -/
def State.litCell (s : State) (ox oy : Nat) (cell : Nat × Nat) : Option (Nat × Nat) :=
  if spriteBit (s.spriteRow cell.1) cell.2 then s.spriteTarget ox oy cell.1 cell.2 else none

/-- The pixels an n-row sprite flips, in visiting order; a pixel that a wrapped sprite meets twice is listed twice. -/
def State.flippedPixels (s : State) (ox oy n : Nat) : List (Nat × Nat) :=
  (spriteCells n).filterMap (s.litCell ox oy)

/-- A visit flips the pixel of a lit cell and does nothing else. -/
theorem State.visitCell_eq (s : State) (ox oy : Nat) (d : Draw) (cell : Nat × Nat) :
    s.visitCell ox oy d cell =
      match s.litCell ox oy cell with
      | some p => d.flip p.1 p.2
      | none => d := by
  unfold State.visitCell State.litCell
  rcases h : s.spriteTarget ox oy cell.1 cell.2 with _ | ⟨px, py⟩
  · simp
  · by_cases hb : spriteBit (s.spriteRow cell.1) cell.2 <;> simp [hb]

/-- A draw is the flips of the lit cells' pixels, in visiting order (R172). -/
theorem State.drawSprite_eq (s : State) (ox oy n : Nat) :
    s.drawSprite ox oy n = (s.flippedPixels ox oy n).foldl (fun d p => d.flip p.1 p.2)
      { surface := s.display, collision := false, events := [] } := by
  unfold State.drawSprite State.flippedPixels
  generalize ({ surface := s.display, collision := false, events := [] } : Draw) = d0
  induction spriteCells n generalizing d0 with
  | nil => rfl
  | cons c rest ih =>
    rw [List.foldl_cons, State.visitCell_eq, ih]
    rcases h : s.litCell ox oy c with _ | p <;> simp [h]

/-- The surface after a draw: one flip per listed pixel. -/
theorem foldl_flip_surface (ps : List (Nat × Nat)) (d : Draw) :
    (ps.foldl (fun d p => d.flip p.1 p.2) d).surface = ps.foldl (fun g p => flipPixel g p.1 p.2) d.surface := by
  induction ps generalizing d with
  | nil => rfl
  | cons p rest ih => rw [List.foldl_cons, ih]; rfl

/-- A draw keeps the shape of the surface (R30). -/
theorem foldl_flip_shape (ps : List (Nat × Nat)) {g : List (List Bool)} {h w : Nat}
    (hg : g.length = h ∧ ∀ row ∈ g, row.length = w) :
    (ps.foldl (fun g p => flipPixel g p.1 p.2) g).length = h ∧
      ∀ row ∈ ps.foldl (fun g p => flipPixel g p.1 p.2) g, row.length = w := by
  induction ps generalizing g with
  | nil => exact hg
  | cons p rest ih =>
    exact ih ⟨by rw [flipPixel_length]; exact hg.1, flipPixel_rows hg.2 _ _⟩

/-- A draw keeps the shape of the surface (R30). -/
theorem State.drawSprite_shape {s : State} (h : s.DisplayShaped) (ox oy n : Nat) :
    (s.drawSprite ox oy n).surface.length = s.height ∧
      ∀ row ∈ (s.drawSprite ox oy n).surface, row.length = s.width := by
  rw [State.drawSprite_eq, foldl_flip_surface]
  exact foldl_flip_shape _ h

theorem blankDisplay_shape (w h : Nat) :
    (blankDisplay w h).length = h ∧ ∀ row ∈ blankDisplay w h, row.length = w := by
  constructor
  · simp [blankDisplay]
  · intro row hr
    simp only [blankDisplay, List.mem_replicate] at hr
    simp [hr.2]

/-- A draw of no rows does nothing (R172, DXY0). -/
@[simp] theorem State.drawSprite_zero (s : State) (ox oy : Nat) :
    s.drawSprite ox oy 0 = { surface := s.display, collision := false, events := [] } := rfl

end Sys2Proof.Machine
end

