-- ==== Sys2Proof/Laws/Encoding.lean ====
section
/-! SUPPORT. The fields of an encoded word, format by format (30_encoding.md R71, R72), and that a word is its fields. -/

namespace Sys2Proof

section Fields
variable (f x y n : Nibble) (nn : Byte) (nnn : Addr12)

theorem formatA_toNat : (formatA f nnn).toNat = f.toNat * 4096 + nnn.toNat := by
  show (f ++ nnn : BitVec (4 + 12)).toNat = _
  rw [BitVec.toNat_append, ← Nat.shiftLeft_add_eq_or_of_lt nnn.isLt, Nat.shiftLeft_eq]

theorem formatI_toNat : (formatI f x nn).toNat = f.toNat * 4096 + x.toNat * 256 + nn.toNat := by
  show (f ++ x ++ nn : BitVec (4 + 4 + 8)).toNat = _
  rw [BitVec.toNat_append, ← Nat.shiftLeft_add_eq_or_of_lt nn.isLt, Nat.shiftLeft_eq, BitVec.toNat_append,
    ← Nat.shiftLeft_add_eq_or_of_lt x.isLt, Nat.shiftLeft_eq]
  omega

theorem formatR_toNat : (formatR f x y n).toNat = f.toNat * 4096 + x.toNat * 256 + y.toNat * 16 + n.toNat := by
  show (f ++ x ++ y ++ n : BitVec (4 + 4 + 4 + 4)).toNat = _
  rw [BitVec.toNat_append, ← Nat.shiftLeft_add_eq_or_of_lt n.isLt, Nat.shiftLeft_eq, BitVec.toNat_append,
    ← Nat.shiftLeft_add_eq_or_of_lt y.isLt, Nat.shiftLeft_eq, BitVec.toNat_append,
    ← Nat.shiftLeft_add_eq_or_of_lt x.isLt, Nat.shiftLeft_eq]
  omega

@[simp] theorem fieldF_formatA : fieldF (formatA f nnn) = f := by
  apply BitVec.eq_of_toNat_eq
  have := f.isLt; have := nnn.isLt
  simp only [fieldF, BitVec.extractLsb'_toNat, formatA_toNat, Nat.shiftRight_eq_div_pow]; omega
@[simp] theorem fieldNNN_formatA : fieldNNN (formatA f nnn) = nnn := by
  apply BitVec.eq_of_toNat_eq
  have := f.isLt; have := nnn.isLt
  simp only [fieldNNN, BitVec.extractLsb'_toNat, formatA_toNat, Nat.shiftRight_eq_div_pow]; omega

@[simp] theorem fieldF_formatI : fieldF (formatI f x nn) = f := by
  apply BitVec.eq_of_toNat_eq
  have := f.isLt; have := x.isLt; have := nn.isLt
  simp only [fieldF, BitVec.extractLsb'_toNat, formatI_toNat, Nat.shiftRight_eq_div_pow]; omega
@[simp] theorem fieldX_formatI : fieldX (formatI f x nn) = x := by
  apply BitVec.eq_of_toNat_eq
  have := f.isLt; have := x.isLt; have := nn.isLt
  simp only [fieldX, BitVec.extractLsb'_toNat, formatI_toNat, Nat.shiftRight_eq_div_pow]; omega
@[simp] theorem fieldNN_formatI : fieldNN (formatI f x nn) = nn := by
  apply BitVec.eq_of_toNat_eq
  have := f.isLt; have := x.isLt; have := nn.isLt
  simp only [fieldNN, BitVec.extractLsb'_toNat, formatI_toNat, Nat.shiftRight_eq_div_pow]; omega

@[simp] theorem fieldF_formatR : fieldF (formatR f x y n) = f := by
  apply BitVec.eq_of_toNat_eq
  have := f.isLt; have := x.isLt; have := y.isLt; have := n.isLt
  simp only [fieldF, BitVec.extractLsb'_toNat, formatR_toNat, Nat.shiftRight_eq_div_pow]; omega
@[simp] theorem fieldX_formatR : fieldX (formatR f x y n) = x := by
  apply BitVec.eq_of_toNat_eq
  have := f.isLt; have := x.isLt; have := y.isLt; have := n.isLt
  simp only [fieldX, BitVec.extractLsb'_toNat, formatR_toNat, Nat.shiftRight_eq_div_pow]; omega
@[simp] theorem fieldY_formatR : fieldY (formatR f x y n) = y := by
  apply BitVec.eq_of_toNat_eq
  have := f.isLt; have := x.isLt; have := y.isLt; have := n.isLt
  simp only [fieldY, BitVec.extractLsb'_toNat, formatR_toNat, Nat.shiftRight_eq_div_pow]; omega
@[simp] theorem fieldN_formatR : fieldN (formatR f x y n) = n := by
  apply BitVec.eq_of_toNat_eq
  have := f.isLt; have := x.isLt; have := y.isLt; have := n.isLt
  simp only [fieldN, BitVec.extractLsb'_toNat, formatR_toNat, Nat.shiftRight_eq_div_pow]; omega

end Fields

/-! ### A word is its fields (R71: the fields overlap) -/

theorem formatA_fields (w : Word) : formatA (fieldF w) (fieldNNN w) = w := by
  apply BitVec.eq_of_toNat_eq
  have := w.isLt
  simp only [formatA_toNat, fieldF, fieldNNN, BitVec.extractLsb'_toNat, Nat.shiftRight_eq_div_pow]; omega

theorem formatI_fields (w : Word) : formatI (fieldF w) (fieldX w) (fieldNN w) = w := by
  apply BitVec.eq_of_toNat_eq
  have := w.isLt
  simp only [formatI_toNat, fieldF, fieldX, fieldNN, BitVec.extractLsb'_toNat, Nat.shiftRight_eq_div_pow]; omega

theorem formatR_fields (w : Word) : formatR (fieldF w) (fieldX w) (fieldY w) (fieldN w) = w := by
  apply BitVec.eq_of_toNat_eq
  have := w.isLt
  simp only [formatR_toNat, fieldF, fieldX, fieldY, fieldN, BitVec.extractLsb'_toNat, Nat.shiftRight_eq_div_pow]; omega

/-! ### Fields under a mask -/

theorem fieldF_and (w m : Word) : fieldF (w &&& m) = fieldF w &&& fieldF m := BitVec.extractLsb'_and
theorem fieldX_and (w m : Word) : fieldX (w &&& m) = fieldX w &&& fieldX m := BitVec.extractLsb'_and
theorem fieldY_and (w m : Word) : fieldY (w &&& m) = fieldY w &&& fieldY m := BitVec.extractLsb'_and
theorem fieldN_and (w m : Word) : fieldN (w &&& m) = fieldN w &&& fieldN m := BitVec.extractLsb'_and
theorem fieldNN_and (w m : Word) : fieldNN (w &&& m) = fieldNN w &&& fieldNN m := BitVec.extractLsb'_and
theorem fieldNNN_and (w m : Word) : fieldNNN (w &&& m) = fieldNNN w &&& fieldNNN m := BitVec.extractLsb'_and

theorem and_mask_A (w : Word) : w &&& 0xF000 = formatA (fieldF w) 0 := by
  rw [← formatA_fields (w &&& 0xF000), fieldF_and, fieldNNN_and, show fieldF 0xF000 = BitVec.allOnes 4 by decide,
    show fieldNNN 0xF000 = 0 by decide]
  simp only [BitVec.and_allOnes]; simp

theorem and_mask_R (w : Word) : w &&& 0xF00F = formatR (fieldF w) 0 0 (fieldN w) := by
  rw [← formatR_fields (w &&& 0xF00F), fieldF_and, fieldX_and, fieldY_and, fieldN_and,
    show fieldF 0xF00F = BitVec.allOnes 4 by decide, show fieldX 0xF00F = 0 by decide,
    show fieldY 0xF00F = 0 by decide, show fieldN 0xF00F = BitVec.allOnes 4 by decide]
  simp only [BitVec.and_allOnes]; simp

theorem and_mask_S (w : Word) : w &&& 0xF0FF = formatI (fieldF w) 0 (fieldNN w) := by
  rw [← formatI_fields (w &&& 0xF0FF), fieldF_and, fieldX_and, fieldNN_and,
    show fieldF 0xF0FF = BitVec.allOnes 4 by decide, show fieldX 0xF0FF = 0 by decide,
    show fieldNN 0xF0FF = BitVec.allOnes 8 by decide]
  simp only [BitVec.and_allOnes]; simp

/-! ### The two bytes of a word (R51) -/

theorem wordOfBytes_toNat (hi lo : Byte) : (wordOfBytes hi lo).toNat = hi.toNat * 256 + lo.toNat := by
  show (hi ++ lo : BitVec (8 + 8)).toNat = _
  rw [BitVec.toNat_append, ← Nat.shiftLeft_add_eq_or_of_lt lo.isLt, Nat.shiftLeft_eq]

@[simp] theorem wordOfBytes_hiByte_loByte (w : Word) : wordOfBytes (hiByte w) (loByte w) = w := by
  apply BitVec.eq_of_toNat_eq
  have := w.isLt
  simp only [wordOfBytes_toNat, hiByte, loByte, BitVec.extractLsb'_toNat, Nat.shiftRight_eq_div_pow]; omega

end Sys2Proof
end

