-- ==== Sys2Proof/Laws/PerInstr.lean ====
section
/-! SUPPORT. The statements made per instruction. The family EncodedWord: the word of every instruction is a word of
its row of the opcode map (30_encoding.md R76: "a word `w` is the instruction iff `w & mask = match`"), and the row is
in the map. -/

namespace Sys2Proof.Laws.EncodedWord

/-- The instruction's encoded word is a word of its own row, and that row is one of the 34. -/
def Statement (i : Instr) : Prop := i.row ∈ opcodeTable ∧ i.row.matchesWord (encode i)

theorem formatA_row (f : Nibble) (nnn : Addr12) : formatA f nnn &&& 0xF000 = formatA f 0 := by
  rw [and_mask_A]; simp

theorem formatI_row (f x : Nibble) (nn : Byte) : formatI f x nn &&& 0xF000 = formatA f 0 := by
  rw [and_mask_A]; simp

theorem formatS_row (f x : Nibble) (nn : Byte) : formatI f x nn &&& 0xF0FF = formatI f 0 nn := by
  rw [and_mask_S]; simp

theorem formatR_row (f x y n : Nibble) : formatR f x y n &&& 0xF00F = formatR f 0 0 n := by
  rw [and_mask_R]; simp

theorem formatD_row (f x y n : Nibble) : formatR f x y n &&& 0xF000 = formatA f 0 := by
  rw [and_mask_A]; simp

theorem cls : Statement .cls := ⟨by decide, by unfold OpcodeRow.matchesWord; decide⟩
theorem ret : Statement .ret := ⟨by decide, by unfold OpcodeRow.matchesWord; decide⟩
theorem jp (nnn : Addr12) : Statement (.jp nnn) :=
  ⟨by simp only [Instr.row]; decide, (formatA_row _ _).trans (by simp only [Instr.row]; decide)⟩
theorem call (nnn : Addr12) : Statement (.call nnn) :=
  ⟨by simp only [Instr.row]; decide, (formatA_row _ _).trans (by simp only [Instr.row]; decide)⟩
theorem seImm (x : RegIdx) (nn : Byte) : Statement (.seImm x nn) :=
  ⟨by simp only [Instr.row]; decide, (formatI_row _ _ _).trans (by simp only [Instr.row]; decide)⟩
theorem sneImm (x : RegIdx) (nn : Byte) : Statement (.sneImm x nn) :=
  ⟨by simp only [Instr.row]; decide, (formatI_row _ _ _).trans (by simp only [Instr.row]; decide)⟩
theorem seReg (x y : RegIdx) (n : Nibble) : Statement (.seReg x y n) :=
  ⟨by simp only [Instr.row]; decide, (formatD_row _ _ _ _).trans (by simp only [Instr.row]; decide)⟩
theorem ldImm (x : RegIdx) (nn : Byte) : Statement (.ldImm x nn) :=
  ⟨by simp only [Instr.row]; decide, (formatI_row _ _ _).trans (by simp only [Instr.row]; decide)⟩
theorem addImm (x : RegIdx) (nn : Byte) : Statement (.addImm x nn) :=
  ⟨by simp only [Instr.row]; decide, (formatI_row _ _ _).trans (by simp only [Instr.row]; decide)⟩
theorem ldReg (x y : RegIdx) : Statement (.ldReg x y) :=
  ⟨by simp only [Instr.row]; decide, (formatR_row _ _ _ _).trans (by simp only [Instr.row]; decide)⟩
theorem orReg (x y : RegIdx) : Statement (.orReg x y) :=
  ⟨by simp only [Instr.row]; decide, (formatR_row _ _ _ _).trans (by simp only [Instr.row]; decide)⟩
theorem andReg (x y : RegIdx) : Statement (.andReg x y) :=
  ⟨by simp only [Instr.row]; decide, (formatR_row _ _ _ _).trans (by simp only [Instr.row]; decide)⟩
theorem xorReg (x y : RegIdx) : Statement (.xorReg x y) :=
  ⟨by simp only [Instr.row]; decide, (formatR_row _ _ _ _).trans (by simp only [Instr.row]; decide)⟩
theorem addReg (x y : RegIdx) : Statement (.addReg x y) :=
  ⟨by simp only [Instr.row]; decide, (formatR_row _ _ _ _).trans (by simp only [Instr.row]; decide)⟩
theorem subReg (x y : RegIdx) : Statement (.subReg x y) :=
  ⟨by simp only [Instr.row]; decide, (formatR_row _ _ _ _).trans (by simp only [Instr.row]; decide)⟩
theorem shr (x y : RegIdx) : Statement (.shr x y) :=
  ⟨by simp only [Instr.row]; decide, (formatR_row _ _ _ _).trans (by simp only [Instr.row]; decide)⟩
theorem subn (x y : RegIdx) : Statement (.subn x y) :=
  ⟨by simp only [Instr.row]; decide, (formatR_row _ _ _ _).trans (by simp only [Instr.row]; decide)⟩
theorem shl (x y : RegIdx) : Statement (.shl x y) :=
  ⟨by simp only [Instr.row]; decide, (formatR_row _ _ _ _).trans (by simp only [Instr.row]; decide)⟩
theorem sneReg (x y : RegIdx) (n : Nibble) : Statement (.sneReg x y n) :=
  ⟨by simp only [Instr.row]; decide, (formatD_row _ _ _ _).trans (by simp only [Instr.row]; decide)⟩
theorem ldI (nnn : Addr12) : Statement (.ldI nnn) :=
  ⟨by simp only [Instr.row]; decide, (formatA_row _ _).trans (by simp only [Instr.row]; decide)⟩
theorem jpV0 (nnn : Addr12) : Statement (.jpV0 nnn) :=
  ⟨by simp only [Instr.row]; decide, (formatA_row _ _).trans (by simp only [Instr.row]; decide)⟩
theorem rnd (x : RegIdx) (nn : Byte) : Statement (.rnd x nn) :=
  ⟨by simp only [Instr.row]; decide, (formatI_row _ _ _).trans (by simp only [Instr.row]; decide)⟩
theorem drw (x y : RegIdx) (n : Nibble) : Statement (.drw x y n) :=
  ⟨by simp only [Instr.row]; decide, (formatD_row _ _ _ _).trans (by simp only [Instr.row]; decide)⟩
theorem skp (x : RegIdx) : Statement (.skp x) :=
  ⟨by simp only [Instr.row]; decide, (formatS_row _ _ _).trans (by simp only [Instr.row]; decide)⟩
theorem sknp (x : RegIdx) : Statement (.sknp x) :=
  ⟨by simp only [Instr.row]; decide, (formatS_row _ _ _).trans (by simp only [Instr.row]; decide)⟩
theorem ldVxDT (x : RegIdx) : Statement (.ldVxDT x) :=
  ⟨by simp only [Instr.row]; decide, (formatS_row _ _ _).trans (by simp only [Instr.row]; decide)⟩
theorem ldVxK (x : RegIdx) : Statement (.ldVxK x) :=
  ⟨by simp only [Instr.row]; decide, (formatS_row _ _ _).trans (by simp only [Instr.row]; decide)⟩
theorem ldDTVx (x : RegIdx) : Statement (.ldDTVx x) :=
  ⟨by simp only [Instr.row]; decide, (formatS_row _ _ _).trans (by simp only [Instr.row]; decide)⟩
theorem ldSTVx (x : RegIdx) : Statement (.ldSTVx x) :=
  ⟨by simp only [Instr.row]; decide, (formatS_row _ _ _).trans (by simp only [Instr.row]; decide)⟩
theorem addI (x : RegIdx) : Statement (.addI x) :=
  ⟨by simp only [Instr.row]; decide, (formatS_row _ _ _).trans (by simp only [Instr.row]; decide)⟩
theorem ldF (x : RegIdx) : Statement (.ldF x) :=
  ⟨by simp only [Instr.row]; decide, (formatS_row _ _ _).trans (by simp only [Instr.row]; decide)⟩
theorem ldB (x : RegIdx) : Statement (.ldB x) :=
  ⟨by simp only [Instr.row]; decide, (formatS_row _ _ _).trans (by simp only [Instr.row]; decide)⟩
theorem ldMemVx (x : RegIdx) : Statement (.ldMemVx x) :=
  ⟨by simp only [Instr.row]; decide, (formatS_row _ _ _).trans (by simp only [Instr.row]; decide)⟩
theorem ldVxMem (x : RegIdx) : Statement (.ldVxMem x) :=
  ⟨by simp only [Instr.row]; decide, (formatS_row _ _ _).trans (by simp only [Instr.row]; decide)⟩

end Sys2Proof.Laws.EncodedWord
end

