-- ==== Sys2Proof/Laws/Timer.lean ====
section
/-! SUPPORT. The Timer Subsystem's arithmetic: what due ticks are, and the decrement of DT. -/

namespace Sys2Proof.Machine

/-- What due ticks are (R223, R224): the elapsed time splits exactly into n tick intervals and a remainder smaller than
one. -/
theorem dueTicks_spec {acc delta : Rat} {f : Nat} (ha : 0 ≤ acc) (hd : 0 ≤ delta) (hf : 1 ≤ f) :
    ((dueTicks acc delta f).1 : Rat) / (f : Rat) + (dueTicks acc delta f).2 = acc + delta ∧
      0 ≤ (dueTicks acc delta f).2 ∧ (dueTicks acc delta f).2 * (f : Rat) < 1 := by
  have hf' : (0 : Rat) < (f : Rat) := by exact_mod_cast hf
  have hpos : 0 ≤ (acc + delta) * (f : Rat) := by positivity
  have hfl : 0 ≤ ((acc + delta) * (f : Rat)).floor := Rat.le_floor_iff.2 (by simpa using hpos)
  have hn : ((((acc + delta) * (f : Rat)).floor.toNat : Nat) : Rat) = (((acc + delta) * (f : Rat)).floor : Rat) := by
    exact_mod_cast Int.toNat_of_nonneg hfl
  have h1 : (((acc + delta) * (f : Rat)).floor : Rat) ≤ (acc + delta) * (f : Rat) := Rat.floor_le _
  have h2 : (acc + delta) * (f : Rat) < ((acc + delta) * (f : Rat)).floor + 1 := by
    exact_mod_cast Rat.lt_floor_add_one _
  simp only [dueTicks, hn]
  refine ⟨by ring, ?_, ?_⟩
  · rw [sub_nonneg, div_le_iff₀ hf']; exact h1
  · rw [sub_mul, div_mul_cancel₀ _ hf'.ne']; linarith

/-- DT after n due decrements (R226: clamped at 0). -/
theorem decrementDt_toNat (dt : Byte) (n : Nat) : (decrementDt dt n).toNat = dt.toNat - n := by
  have := dt.isLt
  simp only [decrementDt, BitVec.toNat_ofNat]
  omega

/-- The host reports no negative time. -/
theorem hostDelta_nonneg (n : Nat) : 0 ≤ hostDelta n := by
  unfold hostDelta; positivity

end Sys2Proof.Machine
end

