-- ==== Sys2Proof/Laws/Step.lean ====
section
/-! SUPPORT. What a step can do, said once. -/

namespace Sys2Proof.Machine

/-- A Step on a fetched word (R100). -/
theorem State.runStep_of_decode {s : State} {i : Instr} (h : decode s.fetchWord = .ok i) :
    s.runStep = exec i s.beginStep := by
  simp [State.runStep, h]

/-- If a step answers a next state, it is the start of an Update, an instruction, or UnknownOpcode raised (R100, R225). -/
theorem step_cases {s t : State} (h : step s = .next t) :
    s.halted = none ∧
      ((s.dueSteps = 0 ∧ t = s.nextUpdate) ∨
       (s.dueSteps ≠ 0 ∧ ∃ i, decode s.fetchWord = .ok i ∧ exec i s.beginStep = .next t) ∨
       (s.dueSteps ≠ 0 ∧ (∃ e, decode s.fetchWord = .error e) ∧ t = s.unknownOpcode)) := by
  unfold step at h
  rcases hh : s.halted with _ | c
  · rw [hh] at h
    refine ⟨rfl, ?_⟩
    by_cases hd : s.dueSteps = 0
    · simp only [hd, if_true] at h
      exact .inl ⟨hd, by injection h with h; exact h.symm⟩
    · simp only [hd, if_false, State.runStep] at h
      rcases hdec : decode s.fetchWord with e | i
      · rw [hdec] at h
        exact .inr (.inr ⟨hd, ⟨e, rfl⟩, by injection h with h; exact h.symm⟩)
      · rw [hdec] at h
        exact .inr (.inl ⟨hd, i, rfl, h⟩)
  · rw [hh] at h; cases h

/-- A step faults exactly on a halted machine, or where the instruction's meaning does. -/
theorem step_halted {s : State} {c : Condition} (h : s.halted = some c) : step s = .fault (.halted c) := by
  simp [step, h]

/-- A jump to itself is a fixed point of Step: only the due count and the polled inputs move (R108). -/
theorem step_atSelfJump {s : State} (hr : s.halted = none) (hd : s.dueSteps ≠ 0) (h : s.AtSelfJump) :
    step s = .next { s.beginStep with pc := s.pc } := by
  obtain ⟨nnn, hw, hp⟩ := h
  have hlt := nnn.isLt
  simp only [step, hr, hd, if_false]
  rw [State.runStep_of_decode hw]
  simp only [exec, execJp, State.setPc, hp]
  congr 2
  apply BitVec.eq_of_toNat_eq
  simp only [BitVec.toNat_ofNat, memSize]
  omega

/-- Out of the loop of an Update nothing runs on a halted machine (R218). -/
theorem State.runDue_halted {s : State} {c : Condition} (h : s.halted = some c) (n : Nat) : s.runDue n = .next s := by
  cases n <;> simp [State.runDue, h]

/-! ### What the host's operations do -/

/-- A launch is accepted exactly with a positive surface, a stack limit that is none or positive, a ROM that fits and a
positive frequency (R8, R250, R252). -/
theorem launchRefusal_eq_none {width height hz : Nat} {stackLimit : Option Nat} {rom : List Byte} :
    launchRefusal width height stackLimit rom hz = none ↔
      1 ≤ width ∧ 1 ≤ height ∧ stackLimit ≠ some 0 ∧ rom.length ≤ 3584 ∧ 1 ≤ hz := by
  have hroom : romRoom = 3584 := rfl
  unfold launchRefusal
  constructor
  · intro h
    split_ifs at h with h1 h2
    exact ⟨by omega, by omega, h2, by omega, by omega⟩
  · rintro ⟨h1, h2, h3, h4, h5⟩
    rw [if_neg (by omega), if_neg h3, if_neg (by omega), if_neg (by omega)]

/-- Reset answers a state exactly between Updates and on an accepted launch, and then the state after Reset (R250, R256). -/
theorem State.hostReset_eq_next {s t : State} {rom : List Byte} {legacy wrap : Bool} {hz : Nat} :
    s.hostReset rom legacy wrap hz = .next t ↔
      s.dueSteps = 0 ∧ launchRefusal s.width s.height s.stackLimit rom hz = none ∧ t = s.afterReset rom legacy wrap hz := by
  unfold State.hostReset
  rcases h : launchRefusal s.width s.height s.stackLimit rom hz with _ | r <;> by_cases hd : s.dueSteps = 0 <;>
    simp [hd, eq_comm]

/-- Update answers a state only between Updates and for a non-negative time: the same state when halted, else what the
loop of due Steps leaves (R225, R216). -/
theorem State.hostUpdate_eq_next {s t : State} {delta : Rat} :
    s.hostUpdate delta = .next t ↔
      s.dueSteps = 0 ∧ 0 ≤ delta ∧
        ((s.halted ≠ none ∧ t = s) ∨
          (s.halted = none ∧ (s.beginUpdate delta).runDue (s.beginUpdate delta).dueSteps = .next t)) := by
  unfold State.hostUpdate
  rcases hh : s.halted with _ | c <;> by_cases hd : s.dueSteps = 0 <;> by_cases hn : delta < 0 <;>
    simp [hd, hn, not_le.2, not_lt.1, eq_comm]

end Sys2Proof.Machine
end

