-- ==== Sys2Proof/Tests/Slice0.lean ====
section
/-! SUPPORT. Tests with expected results from the spec (95_test_vectors.md rows, named in each docstring, and the encodings
of 30_encoding.md R76), and for each statement with hypotheses a witness that meets them. -/

namespace Sys2Proof.Tests

open Sys2Proof.Machine

/-! ### Helpers -/

/-- The machine of the vectors: fresh reset, 64 x 32, both toggles off. -/
def machine : State := { State.reset with legacyShift := false, wrapEdges := false }

/-- The machine with some registers and I set. -/
def machineWith (regs : List (RegIdx × Byte)) (i : Word) : State :=
  { regs.foldl (fun s p => s.setV p.1 p.2) machine with i := i }

/-- The state with bytes stored from an address. -/
def poke (a : Nat) (bytes : List Byte) (s : State) : State := { s with mem := s.mem.writeBytes a bytes }

/-- The state after one outcome, checked; false where the machine stops. -/
def next (r : Result) (check : State → Bool) : Bool :=
  match r with
  | .next t => check t
  | .fault _ => false
  | .refused _ => false

/-- One whole step on a word placed at `pc`, checked. -/
def run (s : State) (w : Word) (check : State → Bool) : Bool := next (step (s.withFetchWord 16 w.toNat)) check

/-- One meaning on a state given as the Step began, pre-advanced (for what reads a polled input). -/
def run' (s : State) (i : Instr) (check : State → Bool) : Bool := next (exec i s.preAdvance) check

/-- The registers read as listed. -/
def regsAre (t : State) (regs : List (RegIdx × Byte)) : Bool := regs.all (fun p => t.readV p.1 == p.2)

/-- The pixels that are on, as (x, y). -/
def onPixels (t : State) : List (Nat × Nat) :=
  (List.range t.height).flatMap (fun y => ((List.range t.width).filter (fun x => pixelAt t.display x y)).map (fun x => (x, y)))

theorem exists_next {r : Result} (h : next r (fun _ => true) = true) : ∃ t, r = .next t := by
  cases r with
  | next t => exact ⟨t, rfl⟩
  | fault f => cases h
  | refused q => cases h

/-! ### Well-formedness: one ill-formed term for each check -/

theorem test_wellFormed_refuses_seReg : Instr.wellFormed (.seReg 1 2 7) = false := by decide
theorem test_wellFormed_refuses_sneReg : Instr.wellFormed (.sneReg 1 2 1) = false := by decide
theorem test_wellFormed_accepts : Instr.wellFormed (.seReg 1 2 0) = true ∧ Instr.wellFormed (.drw 1 2 7) = true := by
  decide

/-! ### Decoding: a word of every constructor, written out from R76 -/

theorem test_decode_family_0 :
    decode 0b0000_0000_1110_0000 = .ok .cls ∧ decode 0b0000_0000_1110_1110 = .ok .ret := by decide
theorem test_decode_jumps :
    decode 0b0001_1100_0010_0100 = .ok (.jp 0xC24) ∧ decode 0b0010_0010_0001_0000 = .ok (.call 0x210) ∧
    decode 0b1011_0101_0010_0100 = .ok (.jpV0 0x524) := by decide
theorem test_decode_skips :
    decode 0b0011_0000_0000_0101 = .ok (.seImm 0 5) ∧ decode 0b0100_1010_1111_0001 = .ok (.sneImm 0xA 0xF1) ∧
    decode 0b0101_0001_0010_0000 = .ok (.seReg 1 2 0) ∧ decode 0b0101_0001_0010_0111 = .ok (.seReg 1 2 7) ∧
    decode 0b1001_0001_0010_0000 = .ok (.sneReg 1 2 0) ∧ decode 0b1001_1111_0010_1000 = .ok (.sneReg 0xF 2 8) := by
  decide
theorem test_decode_immediates :
    decode 0b0110_1010_0010_1011 = .ok (.ldImm 0xA 0x2B) ∧ decode 0b0111_0000_1111_1111 = .ok (.addImm 0 0xFF) ∧
    decode 0b1010_0011_0000_0000 = .ok (.ldI 0x300) ∧ decode 0b1100_0001_0000_1111 = .ok (.rnd 1 0x0F) := by decide
theorem test_decode_family_8 :
    decode 0b1000_0001_0010_0000 = .ok (.ldReg 1 2) ∧ decode 0b1000_0001_0010_0001 = .ok (.orReg 1 2) ∧
    decode 0b1000_0001_0010_0010 = .ok (.andReg 1 2) ∧ decode 0b1000_0001_0010_0011 = .ok (.xorReg 1 2) ∧
    decode 0b1000_0001_0010_0100 = .ok (.addReg 1 2) ∧ decode 0b1000_0001_0010_0101 = .ok (.subReg 1 2) ∧
    decode 0b1000_0001_0010_0110 = .ok (.shr 1 2) ∧ decode 0b1000_0001_0010_0111 = .ok (.subn 1 2) ∧
    decode 0b1000_0001_0010_1110 = .ok (.shl 1 2) := by decide
theorem test_decode_draw : decode 0b1101_0001_0010_0101 = .ok (.drw 1 2 5) := by decide
theorem test_decode_family_E :
    decode 0b1110_0001_1001_1110 = .ok (.skp 1) ∧ decode 0b1110_1111_1010_0001 = .ok (.sknp 0xF) := by decide
theorem test_decode_family_F :
    decode 0b1111_0010_0000_0111 = .ok (.ldVxDT 2) ∧ decode 0b1111_0101_0000_1010 = .ok (.ldVxK 5) ∧
    decode 0b1111_0000_0001_0101 = .ok (.ldDTVx 0) ∧ decode 0b1111_0011_0001_1000 = .ok (.ldSTVx 3) ∧
    decode 0b1111_0001_0001_1110 = .ok (.addI 1) ∧ decode 0b1111_0000_0010_1001 = .ok (.ldF 0) ∧
    decode 0b1111_0000_0011_0011 = .ok (.ldB 0) ∧ decode 0b1111_0010_0101_0101 = .ok (.ldMemVx 2) ∧
    decode 0b1111_1111_0110_0101 = .ok (.ldVxMem 0xF) := by decide

/-- U1 to U8: words that match no row. -/
theorem test_decode_unknown :
    [0x0000, 0x00E1, 0x01E0, 0x0123, 0x8128, 0x812F, 0xE19F, 0xE000, 0xF100, 0xF1FF, 0xF175, 0xF185, 0xF030].all
      (fun w => decode w == .error (.unknownOpcode w)) = true := by decide

/-- DE1 to DE5: the fields. -/
theorem test_fields :
    [fieldF 0xB524, fieldX 0xB524, fieldY 0xB524, fieldN 0xB524] = [0xB, 5, 2, 4] ∧ fieldNN 0xB524 = 0x24 ∧
    fieldNNN 0xB524 = 0x524 ∧ (fieldNNN 0x1C24).toNat = 3108 ∧ fieldHex 0xB524 = ['B', '5', '2', '4'] := by decide

/-- The table's numbering: bit 0 is the least significant bit of the one word (D125; 0123 matches no row). -/
theorem test_decodeTableWord :
    decodeTableWord 16 0xD125 = some (.drw 1 2 5) ∧ decodeTableWord 16 0x0123 = none := by decide

/-! ### Fetch and the Step -/

/-- Section 2.1: fetch at an odd address and across the end of memory. -/
theorem test_fetch :
    (poke 0x201 [0x12, 0x34] { machine with pc := 0x201 }).fetchWord = 0x1234 ∧
    (poke 0xFFF [0x60] { machine with pc := 0xFFF }).fetchWord = 0x60F0 := by decide
theorem test_fetch_wraps_pc : run { machine with pc := 0xFFE } 0x6000 (fun t => t.pc == 0) = true := by decide   -- C13

/-- U1: cleared memory is an unknown opcode; `pc` is pre-advanced and nothing else changes. -/
theorem test_unknown :
    run machine 0x0000 (fun t => t.halted == some (.unknownOpcode 0x0000 0x200) && t.pc == 0x202 &&
      t.trace == [.fault (.unknownOpcode 0x0000 0x200)] && t.v == machine.v && t.dueSteps == 0) = true := by decide +kernel

/-! ### Arithmetic and logic (section 2.2) -/

theorem test_addReg :   -- A4, A5
    run (machineWith [(1, 0x64), (2, 0x9B), (VF, 0x55)] 0) 0x8124 (regsAre · [(1, 0xFF), (2, 0x9B), (VF, 0)]) = true ∧
    run (machineWith [(1, 0x64), (2, 0x9C)] 0) 0x8124 (regsAre · [(1, 0), (VF, 1)]) = true := by decide
theorem test_addReg_flag_register :   -- A8, A10, A12
    run (machineWith [(1, 0x64), (VF, 0xC8)] 0) 0x81F4 (regsAre · [(1, 0x65), (VF, 1)]) = true ∧
    run (machineWith [(1, 0x64), (VF, 0xC8)] 0) 0x8F14 (regsAre · [(1, 0x64), (VF, 0x65)]) = true ∧
    run (machineWith [(VF, 0xC8)] 0) 0x8FF4 (regsAre · [(VF, 2)]) = true := by decide
theorem test_subReg :   -- B2, B3
    run (machineWith [(1, 5), (2, 0xA), (VF, 0x55)] 0) 0x8125 (regsAre · [(1, 0xFB), (2, 0xA), (VF, 0)]) = true ∧
    run (machineWith [(1, 7), (2, 7), (VF, 0x55)] 0) 0x8125 (regsAre · [(1, 0), (VF, 0)]) = true := by decide
theorem test_subReg_flag_register :   -- B8, B10, B12
    run (machineWith [(1, 0xA), (VF, 3)] 0) 0x81F5 (regsAre · [(1, 9), (VF, 1)]) = true ∧
    run (machineWith [(1, 3), (VF, 0xA)] 0) 0x8F15 (regsAre · [(VF, 0xFE)]) = true ∧
    run (machineWith [(VF, 9)] 0) 0x8FF5 (regsAre · [(VF, 0)]) = true := by decide
theorem test_subn :   -- N1, N3
    run (machineWith [(1, 5), (2, 0xA)] 0) 0x8127 (regsAre · [(1, 5), (2, 0xA), (VF, 1)]) = true ∧
    run (machineWith [(1, 7), (2, 7), (VF, 0x55)] 0) 0x8127 (regsAre · [(1, 0), (VF, 0)]) = true := by decide
theorem test_subn_flag_register :   -- N6, N8
    run (machineWith [(1, 3), (VF, 0xA)] 0) 0x81F7 (regsAre · [(1, 0xFE), (VF, 1)]) = true ∧
    run (machineWith [(1, 0xA), (VF, 3)] 0) 0x8F17 (regsAre · [(VF, 9)]) = true := by decide
theorem test_logic :   -- L1, L2, L3, L5
    run (machineWith [(1, 0x0F), (2, 0xF0), (VF, 0x55)] 0) 0x8121 (regsAre · [(1, 0xFF), (VF, 0x55)]) = true ∧
    run (machineWith [(1, 0x3C), (2, 0x0F), (VF, 0x55)] 0) 0x8122 (regsAre · [(1, 0x0C), (VF, 0x55)]) = true ∧
    run (machineWith [(1, 0xFF), (2, 0x0F), (VF, 0x55)] 0) 0x8123 (regsAre · [(1, 0xF0), (VF, 0x55)]) = true ∧
    run (machineWith [(1, 0x11), (2, 0x22), (VF, 0x55)] 0) 0x8120 (regsAre · [(1, 0x22), (2, 0x22), (VF, 0x55)]) = true := by
  decide
theorem test_addImm :   -- I1, I3
    run (machineWith [(0, 0xFF), (VF, 0x55)] 0) 0x7001 (regsAre · [(0, 0), (VF, 0x55)]) = true ∧
    run (machineWith [(VF, 0xF8)] 0) 0x7F10 (regsAre · [(VF, 8)]) = true := by decide
theorem test_shr :   -- SH1
    run { machineWith [(1, 5), (2, 0xA)] 0 with legacyShift := true } 0x8126 (regsAre · [(1, 5), (2, 0xA), (VF, 0)]) = true ∧
    run (machineWith [(1, 5), (2, 0xA)] 0) 0x8126 (regsAre · [(1, 2), (2, 0xA), (VF, 1)]) = true := by decide
theorem test_shr_flag_register :   -- SH5, SH6, SH7
    run { machineWith [(1, 7), (VF, 3)] 0 with legacyShift := true } 0x81F6 (regsAre · [(1, 0), (VF, 1)]) = true ∧
    run { machineWith [(1, 7), (VF, 3)] 0 with legacyShift := true } 0x8F16 (regsAre · [(VF, 3)]) = true ∧
    run (machineWith [(1, 7), (VF, 3)] 0) 0x8F16 (regsAre · [(VF, 0)]) = true ∧
    run (machineWith [(VF, 3)] 0) 0x8FF6 (regsAre · [(VF, 0)]) = true := by decide
theorem test_shl :   -- SL1
    run { machineWith [(1, 0x81), (2, 0x40)] 0 with legacyShift := true } 0x812E (regsAre · [(1, 0x80), (VF, 0)]) = true ∧
    run (machineWith [(1, 0x81), (2, 0x40)] 0) 0x812E (regsAre · [(1, 2), (2, 0x40), (VF, 1)]) = true := by decide
theorem test_shl_flag_register :   -- SL5, SL6, SL7
    run { machineWith [(1, 7), (VF, 0x81)] 0 with legacyShift := true } 0x81FE (regsAre · [(1, 2), (VF, 1)]) = true ∧
    run { machineWith [(1, 0xC3), (VF, 0x81)] 0 with legacyShift := true } 0x8F1E (regsAre · [(VF, 0x86)]) = true ∧
    run (machineWith [(1, 0xC3), (VF, 0x81)] 0) 0x8F1E (regsAre · [(VF, 2)]) = true ∧
    run (machineWith [(VF, 0x81)] 0) 0x8FFE (regsAre · [(VF, 2)]) = true := by decide

/-! ### Control flow (section 2.3) -/

theorem test_skips_immediate :   -- C1 to C4
    run (machineWith [(0, 5)] 0) 0x3005 (·.pc == 0x204) = true ∧ run (machineWith [(0, 4)] 0) 0x3005 (·.pc == 0x202) = true ∧
    run (machineWith [(0, 5)] 0) 0x4005 (·.pc == 0x202) = true ∧ run (machineWith [(0, 4)] 0) 0x4005 (·.pc == 0x204) = true := by
  decide
theorem test_skips_register :   -- C5, C6, C8, C9, C10
    run (machineWith [(1, 7), (2, 7)] 0) 0x5120 (·.pc == 0x204) = true ∧
    run (machineWith [(1, 7), (2, 8)] 0) 0x5120 (·.pc == 0x202) = true ∧
    run (machineWith [(1, 7), (2, 7)] 0) 0x5127 (·.pc == 0x204) = true ∧
    run (machineWith [(1, 7), (2, 8)] 0) 0x9120 (·.pc == 0x204) = true ∧
    run (machineWith [(1, 7), (2, 7)] 0) 0x9120 (·.pc == 0x202) = true := by decide
theorem test_skip_wraps : run { machine with pc := 0xFFC } 0x3000 (·.pc == 0) = true := by decide   -- C12
theorem test_jp : run machine 0x1204 (·.pc == 0x204) = true ∧ run machine 0x1FFF (·.pc == 0xFFF) = true := by   -- C14, C15
  decide
theorem test_jpV0 :   -- C16, C17
    run (machineWith [(0, 4)] 0) 0xB300 (·.pc == 0x304) = true ∧
    run (machineWith [(0, 0xFF)] 0) 0xBFFF (·.pc == 0x0FE) = true := by decide
theorem test_call :   -- C19, C20
    run { machine with pc := 0x204 } 0x2210 (fun t => t.stack == [0x206] && t.pc == 0x210) = true ∧
    run { machine with pc := 0xFFE } 0x2300 (fun t => t.stack == [0x000] && t.pc == 0x300) = true := by decide
theorem test_call_full :   -- C23
    run { machine with pc := 0x240, stackLimit := some 16, stack := List.replicate 16 0x206 } 0x2300
      (fun t => t.halted == some (.stackOverflow 0x240) && t.pc == 0x242 && t.stack.length == 16) = true := by decide
theorem test_ret : run { machine with pc := 0x212, stack := [0x206] } 0x00EE (fun t => t.stack == [] && t.pc == 0x206) = true := by
  decide   -- C21
theorem test_ret_empty :   -- C22
    run { machine with pc := 0x212 } 0x00EE
      (fun t => t.halted == some (.stackUnderflow 0x212) && t.pc == 0x214 && t.stack == []) = true := by decide

/-! ### Loads, I and memory (section 2.5) -/

theorem test_ldImm : run machine 0x6A2B (regsAre · [(0xA, 0x2B), (VF, 0)]) = true := by decide   -- M9
theorem test_ldI : run (machineWith [] 0xFFFF) 0xA300 (·.i == 0x0300) = true := by decide   -- M10
theorem test_rnd :   -- M20, M22
    run' { machine with rnd := 0xA7 } (.rnd 1 0x0F) (regsAre · [(1, 7)]) = true ∧
    run' { machineWith [(1, 9)] 0 with rnd := 0xA7 } (.rnd 1 0) (regsAre · [(1, 0)]) = true := by decide
theorem test_ldB :   -- M1, M2
    run (machineWith [(0, 157)] 0x300) 0xF033 (fun t => t.mem.readBytes 0x300 3 == [1, 5, 7] && t.i == 0x300) = true ∧
    run (machineWith [(0, 0xFF)] 0x0FFE) 0xF033 (fun t => t.mem.readBytes 0xFFE 3 == [2, 5, 5]) = true := by decide
theorem test_ldMemVx :   -- M5, M6
    run (machineWith [(0, 1), (1, 2), (2, 3), (3, 4)] 0x300) 0xF255
      (fun t => t.mem.readBytes 0x300 4 == [1, 2, 3, 0] && t.i == 0x300) = true ∧
    run (machineWith [(0, 0xAA), (1, 0xBB)] 0xFFF) 0xF155 (fun t => t.mem.readBytes 0xFFF 2 == [0xAA, 0xBB]) = true := by
  decide
theorem test_ldVxMem :   -- M7, M8
    run (poke 0x300 [0xAA, 0xBB, 0xCC] (machineWith [(2, 9)] 0x300)) 0xF165
      (fun t => regsAre t [(0, 0xAA), (1, 0xBB), (2, 9)] && t.i == 0x300) = true ∧
    run (poke 0x300 [1, 2, 3, 4, 5, 6, 7, 8, 9, 10, 11, 12, 13, 14, 15, 16] (machineWith [] 0x300)) 0xFF65
      (regsAre · [(0, 1), (7, 8), (0xE, 15), (VF, 16)]) = true := by decide
theorem test_ldF :   -- M11, M12
    run (machineWith [(0, 0x0F)] 0) 0xF029 (·.i == 0x004B) = true ∧
    run (machineWith [(0, 0xFF)] 0) 0xF029 (·.i == 0x04FB) = true := by decide
theorem test_addI :   -- M14, M15, M18, M19
    run (machineWith [(1, 1), (VF, 0x55)] 0x0FFF) 0xF11E (fun t => t.i == 0x1000 && regsAre t [(VF, 0)]) = true ∧
    run (machineWith [(1, 0x20)] 0xFFF0) 0xF11E (fun t => t.i == 0x0010 && regsAre t [(VF, 1)]) = true ∧
    run (machineWith [(1, 0xFF)] 0xFF01) 0xF11E (fun t => t.i == 0 && regsAre t [(VF, 1)]) = true ∧
    run (machineWith [(VF, 0x10)] 0x0100) 0xFF1E (fun t => t.i == 0x0110 && regsAre t [(VF, 0)]) = true := by decide

/-! ### Display (section 2.6) -/

/-- A machine whose display has the listed pixels on. -/
def lit (ps : List (Nat × Nat)) (s : State) : State :=
  { s with display := ps.foldl (fun d p => flipPixel d p.1 p.2) s.display }

theorem test_cls :   -- DR16
    run (lit [(1, 1)] (machineWith [(VF, 7)] 0)) 0x00E0
      (fun t => onPixels t == [] && regsAre t [(VF, 7)] && t.trace == [.displayClear]) = true := by decide +kernel
theorem test_drw :   -- DR1, DR3
    run (poke 0x300 [0xF0] (machineWith [(1, 2), (2, 3)] 0x300)) 0xD121
      (fun t => onPixels t == [(2, 3), (3, 3), (4, 3), (5, 3)] && regsAre t [(VF, 0)] &&
        t.trace == [.displaySet 2 3 true, .displaySet 3 3 true, .displaySet 4 3 true, .displaySet 5 3 true]) = true ∧
    run (lit [(3, 3), (9, 9)] (poke 0x300 [0xF0] (machineWith [(1, 2), (2, 3)] 0x300))) 0xD121
      (fun t => onPixels t == [(2, 3), (4, 3), (5, 3), (9, 9)] && regsAre t [(VF, 1)]) = true := by decide +kernel
theorem test_drw_edges :   -- DR6, DR7, DR9, DR12
    run { lit [(0, 0)] (poke 0x300 [0xFF] (machineWith [(1, 62)] 0x300)) with wrapEdges := true } 0xD121
      (fun t => onPixels t == [(1, 0), (2, 0), (3, 0), (4, 0), (5, 0), (62, 0), (63, 0)] && regsAre t [(VF, 1)]) = true ∧
    run (lit [(0, 0)] (poke 0x300 [0xFF] (machineWith [(1, 62)] 0x300))) 0xD121
      (fun t => onPixels t == [(0, 0), (62, 0), (63, 0)] && regsAre t [(VF, 0)]) = true ∧
    run (poke 0x300 [0xC0] (machineWith [(1, 70), (2, 40)] 0x300)) 0xD121 (fun t => onPixels t == []) = true ∧
    run (poke 0x300 [0xFF] (machineWith [(VF, 0x55)] 0x300)) 0xD120
      (fun t => onPixels t == [] && regsAre t [(VF, 0)] && t.trace == []) = true := by decide +kernel

/-! ### Timer, sound and keys (section 2.7) -/

theorem test_ldVxDT : run { machine with dt := 0x1E } 0xF207 (fun t => regsAre t [(2, 0x1E)] && t.dt == 0x1E) = true := by
  decide   -- T2
theorem test_ldDTVx : run (machineWith [(0, 0x3C)] 0) 0xF015 (·.dt == 0x3C) = true := by decide   -- T3
theorem test_ldSTVx :   -- T5, T6
    run machine 0xF318 (·.trace == [.playTone 0]) = true ∧
    run (machineWith [(3, 0xFF)] 0) 0xF318 (·.trace == [.playTone (17 / 4)]) = true := by decide +kernel
theorem test_ldVxK :   -- K1, K2, K4
    run' { machineWith [(5, 9)] 0 with keysHeld := 0xFFFF, keysNew := 0 } (.ldVxK 5)
      (fun t => t.pc == 0x200 && regsAre t [(5, 9)]) = true ∧
    run' { machineWith [(5, 9)] 0 with keysNew := 0x0080 } (.ldVxK 5) (fun t => t.pc == 0x202 && regsAre t [(5, 7)]) = true ∧
    run' { machine with pc := 0 } (.ldVxK 5) (·.pc == 0) = true := by decide
theorem test_ldVxK_any :   -- K3
    [0, 1, 2, 3].all (fun pick => run' { machine with keysNew := 0x1088, keyPick := pick } (.ldVxK 5)
      (fun t => t.pc == 0x202 && [0x3, 0x7, 0xC].contains (t.readV 5))) = true := by decide
theorem test_skp :   -- K5, K6, K9
    run' { machineWith [(1, 4)] 0 with keysHeld := 0x0010 } (.skp 1) (·.pc == 0x204) = true ∧
    run' (machineWith [(1, 4)] 0) (.skp 1) (·.pc == 0x202) = true ∧
    run' { machineWith [(1, 0x14)] 0 with keysHeld := 0xFFFF } (.skp 1) (·.pc == 0x202) = true := by decide
theorem test_sknp :   -- K7, K8, K10
    run' { machineWith [(1, 4)] 0 with keysHeld := 0x0010 } (.sknp 1) (·.pc == 0x202) = true ∧
    run' (machineWith [(1, 4)] 0) (.sknp 1) (·.pc == 0x204) = true ∧
    run' { machineWith [(1, 0x14)] 0 with keysHeld := 0xFFFF } (.sknp 1) (·.pc == 0x204) = true := by decide

/-! ### Timer Subsystem and Reset -/

/-- T1, its first two calls: at 500 Hz a millisecond runs no Step and leaves 1 ms, the next runs one and leaves none. -/
theorem test_dueTicks :
    dueTicks 0 (1 / 1000) 500 = (0, 1 / 1000) ∧ dueTicks (1 / 1000) (1 / 1000) 500 = (1, 0) := by decide +kernel
theorem test_decrementDt : decrementDt 3 2 = 1 ∧ decrementDt 3 10 = 0 := by decide   -- R226
/-- R250, R253: the ROM lands at 0x200, the font at 0. -/
theorem test_hostReset :
    next (machine.hostReset [0x12, 0x00] true false 500) (fun t =>
      t.mem.readBytes 0x200 3 == [0x12, 0, 0] && t.mem.readBytes 0 5 == [0xF0, 0x90, 0x90, 0x90, 0xF0] &&
      t.legacyShift && t.pc == 0x200 && t.fetchWord == 0x1200) = true := by decide +kernel
/-- `step` runs the instruction placed at the reset `pc`, as the first one after reset. -/
theorem test_first_instruction : next (step (State.reset.withFetchWord 16 0x6A2B)) (fun t => t.readV 0xA == 0x2B && t.pc == 0x202) = true := by
  decide

/-! ### Witnesses: for each statement with hypotheses, values that meet them all -/

/-- A state no reset gives: a bounded stack one below its limit, a pixel on and reported, carried remainders. -/
def busy : State :=
  { lit [(3, 2)] (machineWith [(1, 0x12), (VF, 1)] 0x0FFE) with
    stack := [0x206], stackLimit := some 2, dt := 5, accCpu := 1 / 1000, accDelay := 1 / 100
    trace := [.displaySet 3 2 true] }

/-- `busy` with a Step due on a word. -/
def busyOn (w : Word) : State := busy.placeWord w

theorem witness_DecodeAndEncodeAgree : decode 0x5127 = .ok (.seReg 1 2 7) ∧ encode (.seReg 1 2 7) = 0x5127 := by decide

theorem witness_DecodeAcceptsExactlyTheOpcodeMap :
    decode 0xFF65 = .ok (.ldVxMem 0xF) ∧ (⟨0xF0FF, 0xF065⟩ ∈ opcodeTable ∧ (0xFF65 : Word) &&& 0xF0FF = 0xF065) ∧
    ∀ r ∈ opcodeTable, (0x01E0 : Word) &&& r.mask ≠ r.pattern := by decide

theorem witness_InstructionIsTwoBigEndianBytes :
    decode (wordOfBytes 0x12 0x34) = .ok (.jp 0x234) ∧
    decode (wordOfBytes 0x00 0x00) = .error (.unknownOpcode 0) := by decide

theorem witness_StepRunsTheDecodedInstruction :
    (busyOn 0x5127).halted = none ∧ (busyOn 0x5127).dueSteps ≠ 0 ∧
    decode (wordOfBytes ((busyOn 0x5127).mem.read 0x200) ((busyOn 0x5127).mem.read 0x201)) = .ok (.seReg 1 2 7) ∧
    (busyOn 0x5127).pc = 0x200 := by decide

theorem witness_UnknownWordHaltsTheMachine :
    (busyOn 0x8128).halted = none ∧ (busyOn 0x8128).dueSteps ≠ 0 ∧
    ∀ r ∈ opcodeTable, (busyOn 0x8128).fetchWord &&& r.mask ≠ r.pattern := by decide

theorem witness_OnlyAHaltedMachineStops :
    busy.halted = none ∧ (busy.raise (.stackUnderflow 0x200)).halted = some (.stackUnderflow 0x200) := by decide

theorem witness_NoDueStepBeginsTheNextUpdate : busy.halted = none ∧ busy.dueSteps = 0 := by decide

/-- The four cases of a result and flag table (8XY4 to 8XY7, 8XYE), and both values of the shift toggle. -/
theorem witness_result_and_flag_cases :
    ((0 : RegIdx) ≠ VF ∧ (0xE : RegIdx) ≠ VF) ∧ (0xE ≠ VF ∧ (0xF : RegIdx) = VF) ∧ ((0xF : RegIdx) = VF ∧ (0 : RegIdx) ≠ VF) ∧
    machine.legacyShift = false ∧ { machine with legacyShift := true }.legacyShift = true := by decide

/-- Room on an unbounded stack and one below a limit; a full stack at the limit. -/
theorem witness_CallPushesTheReturnAddress :
    machine.stackLimit ≠ some machine.stack.length ∧ busy.stackLimit ≠ some busy.stack.length ∧
    { busy with stack := [0x206, 0x208] }.stackLimit = some [(0x206 : Word), 0x208].length := by decide

theorem witness_ReturnPopsIntoThePc :
    busy.stack = 0x206 :: [] ∧ machine.stack = [] ∧
    (busy.pc.toNat < 4096 ∧ busy.stackLimit ≠ some busy.stack.length ∧ ∃ t, exec (.call 0xFFF) busy = .next t) :=
  ⟨by decide, by decide, by decide, by decide, _, rfl⟩

theorem witness_ReturnComesBackToTheCall :
    { busy with pc := 0xFFF }.pc.toNat < 4096 ∧ busy.stackLimit ≠ some busy.stack.length ∧
    ∃ t u : State, exec (.call 0x300) { busy with pc := 0xFFF } = .next t ∧ u.dt ≠ t.dt ∧ u.stack = t.stack :=
  ⟨by decide, by decide, _, { machine with stack := [0xFFF, 0x206] }, rfl, by decide, by decide⟩

theorem witness_UnderflowRecordsTheFetchAddress :
    let s := { machine with pc := 0xFFE }.placeWord 0x00EE
    s.halted = none ∧ s.dueSteps ≠ 0 ∧ s.pc.toNat < 4096 ∧ s.fetchWord = 0x00EE ∧ s.stack = [] := by decide

/-- I lowered from 0xFFFF by A300, and by F11E with its 16-bit wrap. -/
theorem witness_LoadImmediateSetsTheRegister :
    (∃ t, exec (.ldI 0x300) (machineWith [] 0xFFFF) = .next t ∧ t.i.toNat < (machineWith [] 0xFFFF).i.toNat) ∧
    ∃ t, exec (.addI 1) (machineWith [(1, 1)] 0xFFFF) = .next t ∧ t.i.toNat < (machineWith [(1, 1)] 0xFFFF).i.toNat :=
  ⟨⟨_, rfl, by decide⟩, _, rfl, by decide⟩

/-- An address outside three stored bytes that wrap past 0xFFF, and one inside. -/
theorem witness_BcdStoresThreeDigits :
    (∀ k < 3, 1 % 4096 ≠ (0x0FFE + k) % 4096) ∧ ¬ ∀ k < 3, 0 % 4096 ≠ (0x0FFE + k) % 4096 := by decide

/-- Register numbers at both ends of a dump or load up to X = 7, and an address just past it. -/
theorem witness_register_blocks :
    (0 : RegIdx).toNat ≤ (7 : RegIdx).toNat ∧ (7 : RegIdx).toNat ≤ (7 : RegIdx).toNat ∧ (7 : RegIdx).toNat < (8 : RegIdx).toNat ∧
    ∀ k ≤ (7 : RegIdx).toNat, 8 % 4096 ≠ (0 + k) % 4096 := by decide

theorem witness_DrawXorsTheCoveredPixels :
    busy.DisplayShaped ∧ 63 < busy.width ∧ 31 < busy.height := by
  refine ⟨⟨by decide, ?_⟩, by decide, by decide⟩
  show ∀ row ∈ busy.display, row.length = 64
  decide

/-- An 8 x 1 sprite of ones: no pixel of an 8 x 2 surface on; one pixel on; two cells on one pixel of a surface 4 wide. -/
theorem witness_CollisionFlagIsCumulative :
    let s := poke 0x300 [0xFF] (machineWith [] 0x300)
    let tiny := { s with width := 4, height := 1, wrapEdges := true, display := blankDisplay 4 1 }
    let small := { s with width := 8, height := 2, display := blankDisplay 8 2 }
    (small.DisplayShaped ∧ ∀ px < 8, ∀ py < 2, pixelAt small.display px py = false ∧ small.coverCount 0 0 1 px py < 2) ∧
    (pixelAt (lit [(7, 0)] s).display 7 0 = true ∧ 1 ≤ (lit [(7, 0)] s).coverCount 0 0 1 7 0) ∧
    (tiny.DisplayShaped ∧ 2 ≤ tiny.coverCount 0 0 1 3 0) := by
  refine ⟨⟨⟨by decide, ?_⟩, by decide +kernel⟩, by decide +kernel, ⟨by decide, ?_⟩, by decide +kernel⟩
  · show ∀ row ∈ blankDisplay 8 2, row.length = 8
    decide
  · show ∀ row ∈ blankDisplay 4 1, row.length = 4
    decide

/-- A legal surface 64 by 32; and on one 4 wide and 1 high an 8 x 1 sprite of ones visits each pixel twice, on and then
off again, by R172's row-major order. -/
theorem witness_DrawReportsEachFlip :
    (busy.DisplayShaped ∧ 1 ≤ busy.width ∧ 1 ≤ busy.height) ∧
    { poke 0x300 [0xFF] (machineWith [] 0x300) with
        width := 4, height := 1, wrapEdges := true, display := blankDisplay 4 1 }.drawEvents 0 0 1 =
      [.displaySet 0 0 true, .displaySet 1 0 true, .displaySet 2 0 true, .displaySet 3 0 true] ++
      [.displaySet 0 0 false, .displaySet 1 0 false, .displaySet 2 0 false, .displaySet 3 0 false] :=
  ⟨⟨witness_DrawXorsTheCoveredPixels.1, by decide, by decide⟩, by decide +kernel⟩

theorem witness_DrawingTwiceRestoresTheDisplay : (0 : RegIdx) ≠ VF ∧ (0xE : RegIdx) ≠ VF := by decide

theorem witness_ReadDelayTimerHasNoSideEffect :
    (∃ t, exec (.ldVxDT VF) busy = .next t) ∧ ∀ x, Instr.ldVxDT VF ≠ .ldDTVx x := ⟨⟨_, rfl⟩, by simp⟩

/-- No key newly pressed; only key 15 newly pressed. -/
theorem witness_KeyWaitTakesANewKey :
    (∀ k < 16, machine.keysNew.getLsbD k = false) ∧
    ∃ k < 16, { machine with keysNew := 0x8000 }.keysNew.getLsbD k = true := ⟨by decide, 15, by decide, by decide⟩

theorem witness_KeyWaitBlocksOrCompletes :
    ({ machine with pc := 0xFFF }.pc.toNat < 4096 ∧ machine.keysNew = 0) ∧
    (busyOn 0xF50A).halted = none ∧ (busyOn 0xF50A).dueSteps ≠ 0 ∧ (busyOn 0xF50A).pc.toNat < 4096 ∧
    decode (busyOn 0xF50A).fetchWord = .ok (.ldVxK 5) := by decide

/-- Key 15 held; key 15 not held; code 16. -/
theorem witness_SkipOnKeyLevel :
    let s := { machineWith [(1, 15)] 0 with keysHeld := 0x8000 }
    ((s.readV 1).toNat < 16 ∧ s.keysHeld.getLsbD (s.readV 1).toNat = true) ∧
    ¬ (((machineWith [(1, 15)] 0).readV 1).toNat < 16 ∧ machine.keysHeld.getLsbD ((machineWith [(1, 15)] 0).readV 1).toNat = true) ∧
    ¬ ((machineWith [(1, 16)] 0).readV 1).toNat < 16 := by decide

theorem witness_KeysArePolledEachStepAndReadByThree :
    ((busyOn 0x00E0).halted = none ∧ (busyOn 0x00E0).dueSteps ≠ 0) ∧
    decode (busyOn 0x00E0).fetchWord = .ok .cls ∧ (decode (busyOn 0x0000).fetchWord = .error (.unknownOpcode 0)) ∧
    (∀ x, Instr.cls ≠ .ldVxK x ∧ Instr.cls ≠ .skp x ∧ Instr.cls ≠ .sknp x) ∧ ∃ t, exec .cls busy = .next t :=
  ⟨by decide, by decide, by decide, by simp, _, rfl⟩

theorem witness_DelayTimerDecrementsAndClamps :
    (∃ t, exec .cls busy = .next t) ∧ (∀ x, Instr.cls ≠ .ldDTVx x) ∧ busy.dt ≠ 0 := ⟨⟨_, rfl⟩, by simp, by decide⟩

theorem witness_LongRunRateIsExact : 1 ≤ 500 ∧ ∀ d ∈ [(0 : Rat), 1 / 1000, 1 / 3], 0 ≤ d := by decide +kernel

theorem witness_UpdateCompletesOrDoesNothing :
    (busyOn 0x1200).dueSteps ≠ 0 ∧ busy.dueSteps = 0 ∧ (busy.raise (.stackUnderflow 0x200)).dueSteps = 0 ∧
    (-1 : Rat) < 0 ∧ (0 : Rat) ≤ 0 ∧ busy.halted = none ∧ (busy.raise (.stackUnderflow 0x200)).halted ≠ none := by decide +kernel

/-- An Update of one tick that runs one Step, a jump to itself. -/
theorem witness_UpdateIsARunOfSteps :
    (0 : Rat) ≤ 1 / 500 ∧ (poke 0x200 [0x12, 0x00] machine).halted = none ∧
    (dueTicks machine.accCpu (1 / 500) machine.cpuHz).1 = 1 ∧
    ∃ t, (poke 0x200 [0x12, 0x00] machine).hostUpdate (1 / 500) = .next t :=
  ⟨by decide +kernel, by decide, by decide +kernel, exists_next (by decide +kernel)⟩

/-- A state ready for a Reset at the least parameters, one in the middle of an Update, and one for each illegal parameter;
the longest ROM and one byte more; the lowest frequency and zero. -/
theorem witness_ResetReplacesTheState :
    (machine.dueSteps = 0 ∧ 1 ≤ { machine with width := 1 }.width ∧ 1 ≤ { machine with height := 1 }.height ∧
      { machine with stackLimit := some 1 }.stackLimit ≠ some 0) ∧
    (busyOn 0x1200).dueSteps ≠ 0 ∧ machine.dueSteps = 0 ∧ { machine with width := 0 }.width = 0 ∧
    { machine with height := 0 }.height = 0 ∧ { machine with stackLimit := some 0 }.stackLimit = some 0 ∧
    3584 < (List.replicate 3585 (0 : Byte)).length ∧ (List.replicate 3584 (0 : Byte)).length ≤ 3584 ∧ 1 ≤ 1 ∧ (0 : Nat) = 0 := by
  rw [List.length_replicate, List.length_replicate]; decide

/-- R256: no Reset in the middle of an Update; R8 and U14: no empty surface, no stack limit of 0. -/
theorem test_hostReset_refuses :
    (busyOn 0x1200).hostReset [] true true 500 = .refused .insideUpdate ∧
    State.hostBuild defaultFont 0 32 none [] true true 500 = .refused .surfaceEmpty ∧
    State.hostBuild defaultFont 64 0 none [] true true 500 = .refused .surfaceEmpty ∧
    State.hostBuild defaultFont 64 32 (some 0) [] true true 500 = .refused .stackLimitZero ∧
    next (State.hostBuild defaultFont 1 1 (some 1) [] true true 1) (fun t => t.width == 1 && t.stackLimit == some 1) = true := by
  refine ⟨rfl, rfl, rfl, rfl, by decide +kernel⟩

theorem witness_FontIsWrittenOnEveryReset : ∃ t, (poke 0 [0xAA] busy).hostReset [0x12] true true 1 = .next t :=
  exists_next (by decide +kernel)

theorem busy_addresses : busy.AddressesInRange := by
  refine ⟨by decide, fun r hr => ?_⟩
  have hr : r ∈ [(0x206 : Word)] := hr
  rw [List.mem_singleton.1 hr]
  decide

theorem busy_stack : busy.StackWithinLimit := by
  intro n hn
  have hn : some 2 = some n := hn
  cases hn
  decide

theorem busy_clocks : busy.ClocksInRange := by
  show _ ∧ _
  decide +kernel

theorem busy_params : busy.ParamsLegal := by
  show _ ∧ _
  decide

theorem busy_inv : busy.Inv :=
  ⟨busy_addresses, busy_stack, by decide, witness_DrawXorsTheCoveredPixels.1, busy_clocks, busy_params, fun h => by cases h⟩

theorem busyOn_inv (w : Word) : (busyOn w).Inv :=
  ⟨busy_addresses, busy_stack, Memory.wf_write (Memory.wf_write (by decide) _ _) _ _, witness_DrawXorsTheCoveredPixels.1,
    busy_clocks, busy_params, fun h => by cases h⟩

theorem busy_sink (w : Word) : (busyOn w).SinkShowsDisplay := by
  show showTrace 64 32 [.displaySet 3 2 true] = busy.display
  decide +kernel

/-- A Step that draws on a lit display, from a state that reset does not give. -/
theorem witness_EveryStepKeepsTheInvariant :
    (busyOn 0xD1F5).Inv ∧ (busyOn 0xD1F5).SinkShowsDisplay ∧ ∃ t, step (busyOn 0xD1F5) = .next t :=
  ⟨busyOn_inv _, busy_sink _, exists_next (by decide +kernel)⟩

theorem witness_HostActsKeepTheInvariant :
    (∃ t, State.hostBuild (Vector.replicate 80 0xAA) 1 1 (some 1) [0x12, 0x00] true false 1 = .next t) ∧
    busy.Inv ∧ (∃ t, busy.hostReset [0x12, 0x00] true false 1000 = .next t) ∧ ∃ t, busy.hostUpdate (1 / 1000) = .next t :=
  ⟨exists_next (by decide +kernel), busy_inv, exists_next (by decide +kernel), exists_next (by decide +kernel)⟩

theorem witness_MemoryIsUnprotectedAndWrittenByTwo :
    (∃ t, exec (.ldVxMem 3) busy = .next t) ∧ (∀ x, Instr.ldVxMem 3 ≠ .ldB x ∧ Instr.ldVxMem 3 ≠ .ldMemVx x) ∧
    (∃ t, step (busyOn 0xF365) = .next t) ∧ decode (busyOn 0xF365).fetchWord = .ok (.ldVxMem 3) ∧
    ((busyOn 0xF365).halted = none ∧ (busyOn 0xF365).dueSteps ≠ 0) :=
  ⟨⟨_, rfl⟩, by simp, exists_next (by decide +kernel), by decide, by decide⟩

theorem witness_EachPartHasItsWriters :
    (∃ t, exec (.drw 1 2 5) busy = .next t) ∧ (∀ n x, Instr.drw 1 2 5 ≠ .ldI n ∧ Instr.drw 1 2 5 ≠ .addI x ∧ Instr.drw 1 2 5 ≠ .ldF x) ∧
    (∀ n, Instr.drw 1 2 5 ≠ .call n ∧ Instr.drw 1 2 5 ≠ .ret) ∧ (∀ x y n, Instr.ldI 5 ≠ .cls ∧ Instr.ldI 5 ≠ .drw x y n) ∧
    ∃ t, step (busyOn 0xD125) = .next t :=
  ⟨⟨_, rfl⟩, by simp, by simp, by simp, exists_next (by decide +kernel)⟩

/-- A flag writer with X = E, and an instruction that leaves VF alone: FX65 with X = E. -/
theorem witness_FlagRegisterIsWrittenByTheListedInstructions :
    (∃ t, exec (.shr 0xE VF) busy = .next t) ∧ (0xE : RegIdx) ≠ VF ∧ (∃ t, exec (.ldVxMem 0xE) busy = .next t) ∧
    Instr.ldVxMem 0xE ≠ .ldVxMem VF ∧ (∃ t, exec (.addI VF) busy = .next t) ∧ ∃ t, exec (.drw VF 1 0) busy = .next t :=
  ⟨⟨_, rfl⟩, by decide, ⟨_, rfl⟩, by decide, ⟨_, rfl⟩, _, rfl⟩

theorem witness_OtherInstructionsLeaveThePc :
    (∃ t, exec (.ldDTVx 1) busy = .next t) ∧
    ∀ x y nn n nnn, Instr.ldDTVx 1 ≠ .seImm x nn ∧ Instr.ldDTVx 1 ≠ .sneImm x nn ∧ Instr.ldDTVx 1 ≠ .seReg x y n ∧
      Instr.ldDTVx 1 ≠ .sneReg x y n ∧ Instr.ldDTVx 1 ≠ .skp x ∧ Instr.ldDTVx 1 ≠ .sknp x ∧ Instr.ldDTVx 1 ≠ .ldVxK x ∧
      Instr.ldDTVx 1 ≠ .jp nnn ∧ Instr.ldDTVx 1 ≠ .jpV0 nnn ∧ Instr.ldDTVx 1 ≠ .call nnn ∧ Instr.ldDTVx 1 ≠ .ret :=
  ⟨⟨_, rfl⟩, by simp⟩

/-- Two states that agree on the register a shift reads and differ on the other, in both modes. -/
theorem witness_LegacyShiftAffectsOnlyTheShifts :
    (∃ t, busy.hostReset [0x12] true false 1 = .next t) ∧
    (∃ t, exec (.addReg 1 2) busy = .next t) ∧ (∀ x y, Instr.addReg 1 2 ≠ .shr x y ∧ Instr.addReg 1 2 ≠ .shl x y) ∧
    (busy.legacyShift = false ∧ (busy.setV 2 9).readV 1 = busy.readV 1 ∧ (busy.setV 2 9).readV 2 ≠ busy.readV 2 ∧
      busy.setV 2 9 = { busy with v := (busy.setV 2 9).v }) ∧
    ({ busy with legacyShift := true }.legacyShift = true ∧ (busy.setV 1 9).readV 2 = busy.readV 2 ∧
      (busy.setV 1 9).readV 1 ≠ busy.readV 1 ∧
      ({ busy with legacyShift := true }.setV 1 9) = { busy with legacyShift := true, v := (busy.setV 1 9).v }) :=
  ⟨⟨_, rfl⟩, ⟨_, rfl⟩, by simp, ⟨by decide, by decide, by decide, rfl⟩, by decide, by decide, by decide, rfl⟩

theorem witness_WrapEdgesAffectsOnlyDraw :
    (∃ t, busy.hostReset [0x12] true false 1 = .next t) ∧
    (∃ t, exec .cls busy = .next t) ∧ ∀ x y n, Instr.cls ≠ .drw x y n := ⟨⟨_, rfl⟩, ⟨_, rfl⟩, by simp⟩

theorem witness_TraceIsOnlyAppendedTo :
    (∃ t, exec (.ldSTVx 1) busy = .next t) ∧ (∃ t, step (busyOn 0xF118) = .next t) ∧ busy.trace ≠ [] :=
  ⟨⟨_, rfl⟩, exists_next (by decide +kernel), by decide⟩

end Sys2Proof.Tests
end

section
/-! SUPPORT. What the execute phase answers and what it leaves of memory, instruction by instruction, and the statement
on the protection of memory (20_memory.md R57). -/

namespace Sys2Proof.Machine

/-! ### Call and return, case by case -/

/-- A call pushes the pre-advanced `pc` and jumps, or stops on a full stack (R136, R213). -/
theorem execCall_cases (nnn : Addr12) (s : State) :
    (s.stackLimit ≠ some s.stack.length ∧
      execCall nnn s = .next ({ s with stack := s.pc :: s.stack }.setPc nnn.toNat)) ∨
    (s.stackLimit = some s.stack.length ∧ execCall nnn s = .next (s.raise (.stackOverflow s.fetchAddress))) := by
  unfold execCall
  rcases hp : s.push s.pc with _ | t
  · exact .inr ⟨(s.push_eq_none s.pc).1 hp, rfl⟩
  · obtain ⟨hroom, rfl⟩ := State.push_eq_some hp
    exact .inl ⟨hroom, rfl⟩

/-- A return pops its target, or stops on an empty stack (R137, R212). -/
theorem execRet_cases (s : State) :
    (∃ ret rest, s.stack = ret :: rest ∧ execRet s = .next ({ s with stack := rest }.setPc ret.toNat)) ∨
    (s.stack = [] ∧ execRet s = .next (s.raise (.stackUnderflow s.fetchAddress))) := by
  unfold execRet
  rcases hp : s.pop with _ | ⟨ret, t⟩
  · exact .inr ⟨(s.pop_eq_none).1 hp, rfl⟩
  · obtain ⟨hstack, ht⟩ := State.pop_eq_some hp
    exact .inl ⟨ret, t.stack, hstack, by rw [← ht]⟩

/-! ### Every instruction answers a next state -/

/-- The execute phase is total: a fatal condition is recorded in the next state and is no fault of the model (R215). -/
theorem exec_answers (i : Instr) (s : State) : ∃ t, exec i s = .next t := by
  cases i
  case call nnn => rcases execCall_cases nnn s with ⟨-, h⟩ | ⟨-, h⟩ <;> exact ⟨_, h⟩
  case ret => rcases execRet_cases s with ⟨_, _, -, h⟩ | ⟨-, h⟩ <;> exact ⟨_, h⟩
  all_goals exact ⟨_, rfl⟩

/-- A running machine with a Step due runs it (R225). -/
theorem step_of_due {s : State} (hr : s.halted = none) (hd : s.dueSteps ≠ 0) : step s = s.runStep := by
  simp [step, hr, hd]

/-- A Step answers a next state, whatever word it fetches (R100, R103). -/
theorem State.runStep_answers (s : State) : ∃ t, s.runStep = .next t := by
  unfold State.runStep
  rcases decode s.fetchWord with e | i
  · exact ⟨_, rfl⟩
  · exact exec_answers i s.beginStep

/-! ### What leaves memory alone -/

@[simp] theorem State.skipIf_mem (s : State) (c : Bool) : (s.skipIf c).mem = s.mem := by cases c <;> rfl

@[simp] theorem State.loadRegs_mem (s : State) (n : Nat) : (s.loadRegs n).mem = s.mem := by rw [State.loadRegs_frame]

@[simp] theorem State.beginStep_mem (s : State) : s.beginStep.mem = s.mem := rfl

@[simp] theorem State.unknownOpcode_mem (s : State) : s.unknownOpcode.mem = s.mem := rfl

@[simp] theorem State.nextUpdate_mem (s : State) : s.nextUpdate.mem = s.mem := rfl

theorem execCall_mem {nnn : Addr12} {s t : State} (h : execCall nnn s = .next t) : t.mem = s.mem := by
  rcases execCall_cases nnn s with ⟨-, h'⟩ | ⟨-, h'⟩ <;> cases h'.symm.trans h <;> rfl

theorem execRet_mem {s t : State} (h : execRet s = .next t) : t.mem = s.mem := by
  rcases execRet_cases s with ⟨_, _, -, h'⟩ | ⟨-, h'⟩ <;> cases h'.symm.trans h <;> rfl

theorem execLdVxK_mem {x : RegIdx} {s t : State} (h : execLdVxK x s = .next t) : t.mem = s.mem := by
  cases h
  cases s.chosenKey <;> rfl

/-- No instruction but FX33 and FX55 changes memory (R57). -/
theorem exec_mem {i : Instr} {s t : State} (h : exec i s = .next t) (hi : ∀ x, i ≠ .ldB x ∧ i ≠ .ldMemVx x) :
    t.mem = s.mem := by
  cases i
  case ldB x => exact absurd rfl (hi x).1
  case ldMemVx x => exact absurd rfl (hi x).2
  case call nnn => exact execCall_mem h
  case ret => exact execRet_mem h
  case ldVxK x => exact execLdVxK_mem h
  case ldVxMem x => cases h; exact s.loadRegs_mem _
  case seImm | sneImm | seReg | sneReg | skp | sknp => cases h; exact s.skipIf_mem _
  all_goals cases h; rfl

/-- A step changes memory only by executing FX33 or FX55 (R57). -/
theorem step_mem {s t : State} (h : step s = .next t)
    (hi : ∀ i x, decode s.fetchWord = .ok i → i ≠ .ldB x ∧ i ≠ .ldMemVx x) : t.mem = s.mem := by
  obtain ⟨-, ⟨-, rfl⟩ | ⟨-, i, hdec, hexec⟩ | ⟨-, -, rfl⟩⟩ := step_cases h
  · exact s.nextUpdate_mem
  · exact (exec_mem hexec fun x => hi i x hdec).trans s.beginStep_mem
  · exact s.unknownOpcode_mem

/-! ### Memory access at I -/

/-- FX55 puts V[k] at I + k, for each register it stores (R155). -/
theorem read_execLdMemVx (s : State) {x : RegIdx} {k : Nat} (hk : k ≤ x.toNat) :
    ∃ t, exec (.ldMemVx x) s = .next t ∧ t.mem.read (s.effectiveAddress k) = s.readV (BitVec.ofNat 4 k) :=
  ⟨_, rfl, s.read_dumpRegs_inside (Nat.lt_succ_of_le hk) x.isLt⟩

/-- FX33 puts digit k of V[X], hundreds first, at I + k (R154). -/
theorem read_execLdB (s : State) (x : RegIdx) {k : Nat} (hk : k < (bcdDigits (s.readV x)).length) :
    ∃ t, exec (.ldB x) s = .next t ∧ t.mem.read (s.effectiveAddress k) = (bcdDigits (s.readV x))[k] :=
  ⟨_, rfl, s.mem.read_writeBytes_inside (s.effectiveAddress 0) k _ hk (by simp [bcdDigits, memSize])⟩

/-- FX65 loads V[r] from I + r, for each register up to X (R156). -/
theorem readV_execLdVxMem (s : State) {x r : RegIdx} (hr : r.toNat ≤ x.toNat) :
    ∃ t, exec (.ldVxMem x) s = .next t ∧ t.readV r = s.mem.read (s.effectiveAddress r.toNat) := by
  refine ⟨_, rfl, ?_⟩
  rw [s.readV_loadRegs x.isLt, if_pos (Nat.lt_succ_of_le hr)]

/-- Settles O54: the frames of the execute phase and of the step, the accesses of FX55, FX33 and FX65 at an arbitrary I,
and a Step at an arbitrary `pc`. -/
theorem memoryIsUnprotectedAndWrittenByTwo : Obligations.MemoryIsUnprotectedAndWrittenByTwo := by
  unfold Obligations.MemoryIsUnprotectedAndWrittenByTwo
  refine ⟨fun i s t h hi => ?_, fun s t => step_mem, fun s a b => ⟨?_, ?_, ?_⟩, fun s a hr hd => ?_⟩
  · have hmem := exec_mem h hi
    exact ⟨hmem, fun a => by rw [hmem]⟩
  · obtain ⟨t, ht, hread⟩ := read_execLdMemVx ({ s with i := a }.setV 0 b) (x := 0) (Nat.zero_le _)
    exact ⟨t, ht, hread.trans (State.readV_setV_same _ 0 b)⟩
  · obtain ⟨t, ht, hread⟩ := read_execLdB ({ s with i := a }.setV 0 b) 0 (k := 0) (Nat.succ_pos _)
    exact ⟨t, ht, hread.trans (by rw [State.readV_setV_same]; rfl)⟩
  · exact readV_execLdVxMem { s with i := a } (le_refl (0 : RegIdx).toNat)
  · obtain ⟨t, ht⟩ := State.runStep_answers { s with pc := a }
    exact ⟨t, (step_of_due (s := { s with pc := a }) hr hd).trans ht,
      fun i hdec => (State.runStep_of_decode (s := { s with pc := a }) hdec).symm.trans ht⟩

end Sys2Proof.Machine
end

section
/-! SUPPORT. The bytes and the fields of the instruction word as arithmetic, and the statements on them (30_encoding.md
R70, R71, R75). -/

namespace Sys2Proof

/-! ### Decoding at the front of a byte list (R70) -/

section Bytes
variable {hi lo : Byte} (rest : List Byte)

theorem decodeBytes_of_ok {i : Instr} (h : decode (wordOfBytes hi lo) = .ok i) :
    decodeBytes (hi :: lo :: rest) = .ok (i, rest) := by
  simp [decodeBytes, h]

theorem decodeBytes_of_error {e : DecodeError} (h : decode (wordOfBytes hi lo) = .error e) :
    decodeBytes (hi :: lo :: rest) = .error e := by
  simp [decodeBytes, h]

end Bytes

/-! ### The fields as unsigned numbers (R71) -/

section FieldValues
variable (w : Word)

/-- The bits of a word from `k` up, `len` of them, as a number. -/
theorem extractLsb'_toNat_eq_div_mod (k len : Nat) : (w.extractLsb' k len).toNat = w.toNat / 2 ^ k % 2 ^ len := by
  rw [BitVec.extractLsb'_toNat, Nat.shiftRight_eq_div_pow]

theorem fieldF_toNat : (fieldF w).toNat = w.toNat / 4096 :=
  (extractLsb'_toNat_eq_div_mod w 12 4).trans (Nat.mod_eq_of_lt (Nat.div_lt_of_lt_mul w.isLt))

theorem fieldX_toNat : (fieldX w).toNat = w.toNat / 256 % 16 := extractLsb'_toNat_eq_div_mod w 8 4

theorem fieldY_toNat : (fieldY w).toNat = w.toNat / 16 % 16 := extractLsb'_toNat_eq_div_mod w 4 4

theorem fieldN_toNat : (fieldN w).toNat = w.toNat % 16 := BitVec.extractLsb'_toNat 0 4 w

theorem fieldNN_toNat : (fieldNN w).toNat = w.toNat % 256 := BitVec.extractLsb'_toNat 0 8 w

theorem fieldNNN_toNat : (fieldNNN w).toNat = w.toNat % 4096 := BitVec.extractLsb'_toNat 0 12 w

/-! ### The overlaps (R71) -/

theorem fieldNN_eq_append : fieldNN w = fieldY w ++ fieldN w :=
  (BitVec.extractLsb'_append_extractLsb'_eq_extractLsb' (start₁ := 0) (len₁ := 4) (start₂ := 4)
    (len₂ := 4) rfl).symm

theorem fieldNNN_eq_append : fieldNNN w = fieldX w ++ fieldNN w :=
  (BitVec.extractLsb'_append_extractLsb'_eq_extractLsb' (start₁ := 0) (len₁ := 8) (start₂ := 8)
    (len₂ := 4) rfl).symm

end FieldValues

/-! ### The hexadecimal digits (R75) -/

/-- The sixteen digits, in upper case, in the order of their values. -/
def hexDigits : List Char := ['0', '1', '2', '3', '4', '5', '6', '7', '8', '9', 'A', 'B', 'C', 'D', 'E', 'F']

theorem hexDigit_eq_getD : ∀ d : Nibble, hexDigit d = hexDigits.getD d.toNat '0' := by decide

theorem fieldHex_eq_map (w : Word) :
    fieldHex w = [fieldF w, fieldX w, fieldY w, fieldN w].map (fun d => hexDigits.getD d.toNat '0') :=
  List.map_congr_left fun d _ => hexDigit_eq_getD d

/-! ### The statements -/

/-- Settles O3: the value of two bytes as a word, the decoder at the front of a byte list, and the fetch, which reads the
two bytes by definition. -/
theorem instructionIsTwoBigEndianBytes : Obligations.InstructionIsTwoBigEndianBytes := by
  unfold Obligations.InstructionIsTwoBigEndianBytes
  intro hi lo rest s
  refine ⟨?_, fun i => decodeBytes_of_ok rest, fun e => decodeBytes_of_error rest, rfl⟩
  rw [wordOfBytes_toNat, Nat.mul_comm]

/-- Settles O4: each field as a quotient and remainder of the word, the overlaps, and the digit of each nibble. -/
theorem fieldsOfTheInstructionWord : Obligations.FieldsOfTheInstructionWord := by
  unfold Obligations.FieldsOfTheInstructionWord
  intro w
  exact ⟨fieldF_toNat w, fieldX_toNat w, fieldY_toNat w, fieldN_toNat w, fieldNN_toNat w, fieldNNN_toNat w,
    fieldNN_eq_append w, fieldNNN_eq_append w, (formatA_fields w).symm, fieldHex_eq_map w⟩

end Sys2Proof
end

section
/-! SUPPORT. A word that decodes is the encoding of what it decodes to, and with it the statement on 7XNN; LEGACY_SHIFT
in the execute phase, and what a shift reads, and with them the statement on LEGACY_SHIFT (30_encoding.md R76;
41_arith_logic.md R110, R120, R122). -/

namespace Sys2Proof

/-! ### A word from the fields its selection fixes -/

section Selected
variable {w : Word} {f : Nibble}

theorem formatA_of_fieldF (hf : (fieldF w).toNat = f.toNat) : formatA f (fieldNNN w) = w := by
  rw [← BitVec.eq_of_toNat_eq hf, formatA_fields]

theorem formatI_of_fieldF (hf : (fieldF w).toNat = f.toNat) : formatI f (fieldX w) (fieldNN w) = w := by
  rw [← BitVec.eq_of_toNat_eq hf, formatI_fields]

theorem formatR_of_fieldF (hf : (fieldF w).toNat = f.toNat) : formatR f (fieldX w) (fieldY w) (fieldN w) = w := by
  rw [← BitVec.eq_of_toNat_eq hf, formatR_fields]

theorem formatR_of_fieldF_fieldN {n : Nibble} (hf : (fieldF w).toNat = f.toNat) (hn : (fieldN w).toNat = n.toNat) :
    formatR f (fieldX w) (fieldY w) n = w := by
  rw [← BitVec.eq_of_toNat_eq hn, formatR_of_fieldF hf]

theorem formatI_of_fieldF_fieldNN {nn : Byte} (hf : (fieldF w).toNat = f.toNat) (hnn : fieldNN w = nn) :
    formatI f (fieldX w) nn = w := by
  rw [← hnn, formatI_of_fieldF hf]

end Selected

/-! ### Encoding what a word decodes to, family by family (R76, R80 to R83) -/

section EncodeDecoded
variable {w : Word} {i : Instr}

theorem encode_of_decodeFamily0 (h : decodeFamily0 w = .ok i) : encode i = w := by
  unfold decodeFamily0 at h
  split_ifs at h with hcls hret <;> cases h
  · exact hcls.symm
  · exact hret.symm

theorem encode_of_decodeFamily8 (hf : (fieldF w).toNat = 0x8) (h : decodeFamily8 w = .ok i) : encode i = w := by
  unfold decodeFamily8 at h
  split at h <;> cases h <;> rename_i hn <;> exact formatR_of_fieldF_fieldN hf hn

theorem encode_of_decodeFamilyE (hf : (fieldF w).toNat = 0xE) (h : decodeFamilyE w = .ok i) : encode i = w := by
  unfold decodeFamilyE at h
  split_ifs at h <;> cases h <;> exact formatI_of_fieldF_fieldNN hf ‹fieldNN w = _›

theorem encode_of_decodeFamilyF (hf : (fieldF w).toNat = 0xF) (h : decodeFamilyF w = .ok i) : encode i = w := by
  unfold decodeFamilyF at h
  split_ifs at h <;> cases h <;> exact formatI_of_fieldF_fieldNN hf ‹fieldNN w = _›

/-- Decoding drops no bit: the ignored nibble of 5XYN and 9XYN is kept in the instruction (R83). -/
theorem encode_of_decode (h : decode w = .ok i) : encode i = w := by
  unfold decode at h
  split at h
  case h_1 => exact encode_of_decodeFamily0 h
  case h_9 hf => exact encode_of_decodeFamily8 hf h
  case h_15 hf => exact encode_of_decodeFamilyE hf h
  case h_16 hf => exact encode_of_decodeFamilyF hf h
  case h_2 hf | h_3 hf | h_11 hf | h_12 hf => cases h; exact formatA_of_fieldF hf
  case h_4 hf | h_5 hf | h_7 hf | h_8 hf | h_13 hf => cases h; exact formatI_of_fieldF hf
  case h_6 hf | h_10 hf | h_14 hf => cases h; exact formatR_of_fieldF hf
  case h_17 => cases h

end EncodeDecoded

/-! ### The words of one row (R76) -/

/-- Under the mask of a row with one fixed nibble, a word is known by its first nibble. -/
theorem and_mask_A_eq_iff (w : Word) (f : Nibble) : w &&& 0xF000 = formatA f 0 ↔ fieldF w = f := by
  rw [and_mask_A]
  exact ⟨fun h => by simpa using congrArg fieldF h, fun h => by rw [h]⟩

theorem decode_of_fieldF_seven {w : Word} (h : fieldF w = 7) : decode w = .ok (.addImm (fieldX w) (fieldNN w)) := by
  simp [decode, h]

end Sys2Proof

namespace Sys2Proof.Machine

/-! ### 7XNN (R76, R120) -/

/-- The words of a row are those that decode to `instr`: no word of another row does, as its encoding shows. -/
theorem encodedAs_of_row {row : OpcodeRow} {instr : Word → Instr}
    (hdecode : ∀ w, row.matchesWord w → decode w = .ok (instr w))
    (hrow : ∀ w, row.matchesWord (encode (instr w))) : EncodedAs row.mask row.pattern instr :=
  fun w => ⟨hdecode w, fun h => encode_of_decode h ▸ hrow w⟩

theorem encodedAs_addImm : EncodedAs 0xF000 0x7000 (fun w => .addImm (fieldX w) (fieldNN w)) :=
  encodedAs_of_row (row := ⟨0xF000, 0x7000⟩) (fun w h => decode_of_fieldF_seven ((and_mask_A_eq_iff w 7).1 h))
    (fun w => (Laws.EncodedWord.addImm (fieldX w) (fieldNN w)).2)

/-- The sum of two bytes as the spec writes it. -/
theorem byte_add_eq_ofNat (a b : Byte) : a + b = BitVec.ofNat 8 ((a.toNat + b.toNat) % 256) :=
  BitVec.eq_of_toNat_eq (by simp)

/-- Settles O10: the words of the row, and one register write with its frame. -/
theorem addImmediateWraps : Obligations.AddImmediateWraps := by
  unfold Obligations.AddImmediateWraps
  refine ⟨encodedAs_addImm, fun x nn s => ⟨s.setV x (s.readV x + nn), rfl, ?_⟩⟩
  rw [← byte_add_eq_ofNat]
  exact s.writesOnly_setV x _

/-! ### LEGACY_SHIFT outside the shifts (R122) -/

/-- `s` under a given value of LEGACY_SHIFT. -/
def State.withLegacyShift (s : State) (b : Bool) : State := { s with legacyShift := b }

section WithLegacyShift
variable (s : State) (b : Bool)

theorem State.skipIf_withLegacyShift (c : Bool) :
    (s.withLegacyShift b).skipIf c = (s.skipIf c).withLegacyShift b := by
  cases c <;> rfl

theorem State.dumpRegs_withLegacyShift (n : Nat) : (s.withLegacyShift b).dumpRegs n = s.dumpRegs n := by
  induction n with
  | zero => rfl
  | succ n ih => rw [State.dumpRegs, ih]; rfl

theorem State.loadRegs_withLegacyShift (n : Nat) :
    (s.withLegacyShift b).loadRegs n = (s.loadRegs n).withLegacyShift b := by
  induction n with
  | zero => rfl
  | succ n ih => rw [State.loadRegs, ih]; rfl

end WithLegacyShift

section ExecWithLegacyShift
variable {s t : State} (b : Bool)

theorem execCall_withLegacyShift {nnn : Addr12} (h : execCall nnn s = .next t) :
    execCall nnn (s.withLegacyShift b) = .next (t.withLegacyShift b) := by
  rcases execCall_cases nnn s with ⟨hroom, hs⟩ | ⟨hfull, hs⟩ <;> cases hs.symm.trans h <;>
    rcases execCall_cases nnn (s.withLegacyShift b) with ⟨hroom', hs'⟩ | ⟨hfull', hs'⟩
  · exact hs'
  · exact absurd hfull' hroom
  · exact absurd hfull hroom'
  · exact hs'

theorem execRet_withLegacyShift (h : execRet s = .next t) :
    execRet (s.withLegacyShift b) = .next (t.withLegacyShift b) := by
  rcases execRet_cases s with ⟨ret, rest, hstack, hs⟩ | ⟨hempty, hs⟩ <;> cases hs.symm.trans h <;>
    rcases execRet_cases (s.withLegacyShift b) with ⟨ret', rest', hstack', hs'⟩ | ⟨hempty', hs'⟩
  · cases hstack.symm.trans hstack'
    exact hs'
  · cases hstack.symm.trans hempty'
  · cases hempty.symm.trans hstack'
  · exact hs'

theorem execLdVxK_withLegacyShift {x : RegIdx} (h : execLdVxK x s = .next t) :
    execLdVxK x (s.withLegacyShift b) = .next (t.withLegacyShift b) := by
  have hkey : (s.withLegacyShift b).chosenKey = s.chosenKey := rfl
  unfold execLdVxK at h ⊢
  rw [hkey]
  cases h
  cases s.chosenKey <;> rfl

/-- No instruction but 8XY6 and 8XYE reads LEGACY_SHIFT, and none writes it (R122). -/
theorem exec_withLegacyShift {i : Instr} (h : exec i s = .next t) (hi : ∀ x y, i ≠ .shr x y ∧ i ≠ .shl x y) :
    exec i (s.withLegacyShift b) = .next (t.withLegacyShift b) := by
  cases i
  case shr x y => exact absurd rfl (hi x y).1
  case shl x y => exact absurd rfl (hi x y).2
  case call nnn => exact execCall_withLegacyShift b h
  case ret => exact execRet_withLegacyShift b h
  case ldVxK x => exact execLdVxK_withLegacyShift b h
  case ldMemVx x =>
    cases h
    exact congrArg (fun m => Host.Outcome.next ((s.withLegacyShift b).setMem m)) (s.dumpRegs_withLegacyShift b _)
  case ldVxMem x => cases h; exact congrArg Host.Outcome.next (s.loadRegs_withLegacyShift b _)
  case seImm | sneImm | seReg | sneReg | skp | sknp =>
    cases h; exact congrArg Host.Outcome.next (s.skipIf_withLegacyShift b _)
  all_goals cases h; rfl

end ExecWithLegacyShift

/-! ### What a shift reads (R110, R117, R119, R122) -/

/-- Both shifts at once: a flag and then a result, each computed from the source register. -/
def State.shiftWith (s : State) (x y : RegIdx) (flag shift : Byte → Byte) : State :=
  s.flagThenResult x (flag (s.readV (s.shiftSource x y))) (fun t => shift (t.readV (t.shiftSource x y)))

theorem execShr_eq (x y : RegIdx) (s : State) : execShr x y s = .next (s.shiftWith x y shrFlag (· >>> 1)) := rfl

theorem execShl_eq (x y : RegIdx) (s : State) : execShl x y s = .next (s.shiftWith x y shlFlag (· <<< 1)) := rfl

section ShiftWith
variable (s : State) (x y : RegIdx) (flag shift : Byte → Byte)

/-- The result is shifted from the source as the flag write leaves it: the flag itself when the source is VF (R110). -/
theorem State.readV_shiftWith_dest : (s.shiftWith x y flag shift).readV x =
    shift (if s.shiftSource x y = VF then flag (s.readV (s.shiftSource x y)) else s.readV (s.shiftSource x y)) := by
  obtain ⟨hresult, -⟩ := s.writesResultAndFlag_flagThenResult x (flag (s.readV (s.shiftSource x y)))
    (fun t => shift (t.readV (t.shiftSource x y)))
  exact hresult.trans (congrArg shift (s.readV_setV VF (s.shiftSource x y) _))

theorem State.readV_shiftWith_VF {x : RegIdx} (hx : x ≠ VF) :
    (s.shiftWith x y flag shift).readV VF = flag (s.readV (s.shiftSource x y)) := by
  obtain ⟨-, hflag, -⟩ := s.writesResultAndFlag_flagThenResult x (flag (s.readV (s.shiftSource x y)))
    (fun t => shift (t.readV (t.shiftSource x y)))
  exact hflag hx

/-- A shift's result and flag depend on the source register alone. -/
theorem State.shiftWith_congr {s u : State} {x y : RegIdx} (hsrc : u.shiftSource x y = s.shiftSource x y)
    (hval : u.readV (s.shiftSource x y) = s.readV (s.shiftSource x y)) :
    (s.shiftWith x y flag shift).readV x = (u.shiftWith x y flag shift).readV x ∧
      (s.shiftWith x y flag shift).readV VF = (u.shiftWith x y flag shift).readV VF := by
  have hdest : (s.shiftWith x y flag shift).readV x = (u.shiftWith x y flag shift).readV x := by
    rw [s.readV_shiftWith_dest, u.readV_shiftWith_dest, hsrc, hval]
  refine ⟨hdest, ?_⟩
  by_cases hx : x = VF
  · exact hx ▸ hdest
  · rw [s.readV_shiftWith_VF y flag shift hx, u.readV_shiftWith_VF y flag shift hx, hsrc, hval]

end ShiftWith

theorem State.readV_shiftSource_congr {s u : State} {x y : RegIdx}
    (h : if s.legacyShift then u.readV y = s.readV y else u.readV x = s.readV x) :
    u.readV (s.shiftSource x y) = s.readV (s.shiftSource x y) := by
  unfold State.shiftSource
  split_ifs at h ⊢ <;> exact h

/-- Settles O58: Reset stores the value it is given, the execute phase commutes with changing it, and a shift reads its
source register alone. -/
theorem legacyShiftAffectsOnlyTheShifts : Obligations.LegacyShiftAffectsOnlyTheShifts := by
  unfold Obligations.LegacyShiftAffectsOnlyTheShifts
  refine ⟨fun s t rom legacy wrap hz h => ?_, fun i s t b h hi => exec_withLegacyShift b h hi,
    fun x y s u hu hagree => ?_⟩
  · obtain ⟨-, -, rfl⟩ := State.hostReset_eq_next.1 h
    rfl
  · have hmode : u.legacyShift = s.legacyShift := (congrArg State.legacyShift hu :)
    have hsrc : u.shiftSource x y = s.shiftSource x y := by rw [State.shiftSource, hmode]; rfl
    have hval := State.readV_shiftSource_congr hagree
    exact ⟨⟨_, _, execShr_eq x y s, execShr_eq x y u, State.shiftWith_congr _ _ hsrc hval⟩,
      ⟨_, _, execShl_eq x y s, execShl_eq x y u, State.shiftWith_congr _ _ hsrc hval⟩⟩

end Sys2Proof.Machine
end

section
/-! SUPPORT. The rows of the opcode map with one fixed nibble, and the skip and the jump as the one write of `pc` they
are, and with them the statements on 3XNN, 4XNN and 1NNN (30_encoding.md R76; 42_control_flow.md R130, R131, R134). -/

namespace Sys2Proof.Machine

/-! ### Rows with one fixed nibble (R76) -/

/-- A row with one fixed nibble: it is enough to decode the words that begin with it, and to know that the encoding
begins with it. -/
theorem encodedAs_of_fieldF {f : Nibble} {instr : Word → Instr}
    (hdecode : ∀ w, fieldF w = f → decode w = .ok (instr w)) (hrow : ∀ w, fieldF (encode (instr w)) = f) :
    EncodedAs 0xF000 (formatA f 0) instr :=
  encodedAs_of_row (row := ⟨0xF000, formatA f 0⟩) (fun w h => hdecode w ((and_mask_A_eq_iff w f).1 h))
    (fun w => (and_mask_A_eq_iff _ f).2 (hrow w))

theorem encodedAs_jp : EncodedAs 0xF000 0x1000 (fun w => .jp (fieldNNN w)) :=
  encodedAs_of_fieldF (f := 1) (fun w h => by simp [decode, h]) (fun w => fieldF_formatA 1 (fieldNNN w))

theorem encodedAs_seImm : EncodedAs 0xF000 0x3000 (fun w => .seImm (fieldX w) (fieldNN w)) :=
  encodedAs_of_fieldF (f := 3) (fun w h => by simp [decode, h]) (fun w => fieldF_formatI 3 (fieldX w) (fieldNN w))

theorem encodedAs_sneImm : EncodedAs 0xF000 0x4000 (fun w => .sneImm (fieldX w) (fieldNN w)) :=
  encodedAs_of_fieldF (f := 4) (fun w h => by simp [decode, h]) (fun w => fieldF_formatI 4 (fieldX w) (fieldNN w))

/-! ### Skips and jumps (R104, R134) -/

section WritesOfPc
variable (s : State)

/-- The model's write of `pc` is the one the statements are written with (R24). -/
theorem State.setPc_eq_withPc (target : Nat) : s.setPc target = s.withPc target := rfl

theorem State.skipIf_beq {n : Nat} (a b : BitVec n) :
    s.skipIf (a == b) = if a = b then s.withPc (s.pc.toNat + 2) else s := by
  simp only [State.skipIf_eq, State.setPc_eq_withPc, beq_iff_eq]

theorem State.skipIf_bne {n : Nat} (a b : BitVec n) :
    s.skipIf (a != b) = if a = b then s else s.withPc (s.pc.toNat + 2) := by
  simp only [State.skipIf_eq, State.setPc_eq_withPc, bne_iff_ne, ite_not]

/-- A 12-bit target is stored as it is: it needs no wrap (R134). -/
theorem State.setPc_addr (nnn : Addr12) : s.setPc nnn.toNat = { s with pc := nnn.setWidth 16 } := by
  have hpc : (s.setPc nnn.toNat).pc = nnn.setWidth 16 := by
    apply BitVec.eq_of_toNat_eq
    rw [State.setPc_toNat, BitVec.toNat_setWidth_of_le (by decide)]
    exact Nat.mod_eq_of_lt nnn.isLt
  rw [← hpc]
  rfl

end WritesOfPc

/-! ### The statements -/

/-- Settles O16: the words of the two rows, and the skip on each condition. -/
theorem skipOnImmediate : Obligations.SkipOnImmediate := by
  unfold Obligations.SkipOnImmediate
  refine ⟨encodedAs_seImm, encodedAs_sneImm, fun x nn s => ⟨?_, ?_⟩⟩
  · exact congrArg Host.Outcome.next (s.skipIf_beq (s.readV x) nn)
  · exact congrArg Host.Outcome.next (s.skipIf_bne (s.readV x) nn)

/-- Settles O18: the words of the row, and the write of `pc` alone. -/
theorem jumpReplacesThePc : Obligations.JumpReplacesThePc := by
  unfold Obligations.JumpReplacesThePc
  exact ⟨encodedAs_jp, fun nnn s => congrArg Host.Outcome.next (s.setPc_addr nnn)⟩

end Sys2Proof.Machine
end

section
/-! SUPPORT. The rows of the opcode map with a fixed first nibble and a fixed low byte, the memory that FX33 and FX55 leave
and the registers that FX65 leaves, and what can lower I, and with them the statements on FX33, FX55, FX65, 6XNN and ANNN
(30_encoding.md R76; 43_load_index_memory.md R150, R151, R154 to R156). -/

namespace Sys2Proof.Machine

/-! ### Rows with a fixed first nibble and low byte (R72, R76) -/

/-- Under the mask of a format S row, a word is known by its first nibble and its low byte. -/
theorem and_mask_S_eq_iff (w : Word) (f : Nibble) (nn : Byte) :
    w &&& 0xF0FF = formatI f 0 nn ↔ fieldF w = f ∧ fieldNN w = nn := by
  rw [and_mask_S]
  refine ⟨fun h => ⟨by simpa using congrArg fieldF h, by simpa using congrArg fieldNN h⟩, ?_⟩
  rintro ⟨hf, hnn⟩
  rw [hf, hnn]

/-- A format S row, whose instruction has the one field X: it is enough to decode the words with its nibble and byte, and
to know that the encoding has them. -/
theorem encodedAs_of_fieldF_fieldNN {f : Nibble} {nn : Byte} {instr : RegIdx → Instr}
    (hdecode : ∀ w, fieldF w = f → fieldNN w = nn → decode w = .ok (instr (fieldX w)))
    (hencode : ∀ x, encode (instr x) = formatI f x nn) :
    EncodedAs 0xF0FF (formatI f 0 nn) (fun w => instr (fieldX w)) := by
  refine encodedAs_of_row (row := ⟨0xF0FF, formatI f 0 nn⟩) (fun w h => ?_) (fun w => ?_)
  · obtain ⟨hf, hnn⟩ := (and_mask_S_eq_iff w f nn).1 h
    exact hdecode w hf hnn
  · rw [hencode]
    exact Laws.EncodedWord.formatS_row f (fieldX w) nn

theorem encodedAs_ldB : EncodedAs 0xF0FF 0xF033 (fun w => .ldB (fieldX w)) :=
  encodedAs_of_fieldF_fieldNN (f := 0xF) (nn := 0x33) (fun w hf hnn => by simp [decode, decodeFamilyF, hf, hnn])
    (fun _ => rfl)

theorem encodedAs_ldMemVx : EncodedAs 0xF0FF 0xF055 (fun w => .ldMemVx (fieldX w)) :=
  encodedAs_of_fieldF_fieldNN (f := 0xF) (nn := 0x55) (fun w hf hnn => by simp [decode, decodeFamilyF, hf, hnn])
    (fun _ => rfl)

theorem encodedAs_ldVxMem : EncodedAs 0xF0FF 0xF065 (fun w => .ldVxMem (fieldX w)) :=
  encodedAs_of_fieldF_fieldNN (f := 0xF) (nn := 0x65) (fun w hf hnn => by simp [decode, decodeFamilyF, hf, hnn])
    (fun _ => rfl)

theorem encodedAs_ldImm : EncodedAs 0xF000 0x6000 (fun w => .ldImm (fieldX w) (fieldNN w)) :=
  encodedAs_of_fieldF (f := 6) (fun w h => by simp [decode, h]) (fun w => fieldF_formatI 6 (fieldX w) (fieldNN w))

theorem encodedAs_ldI : EncodedAs 0xF000 0xA000 (fun w => .ldI (fieldNNN w)) :=
  encodedAs_of_fieldF (f := 0xA) (fun w h => by simp [decode, h]) (fun w => fieldF_formatA 0xA (fieldNNN w))

/-! ### Blocks of memory at I (R154, R155) -/

section Blocks
variable (s : State)

/-- Byte k of the digits FX33 stores, at I + k: three bytes do not wrap onto themselves (R154). -/
theorem State.read_bcdDigits_inside (b : Byte) {k : Nat} (hk : k < 3) :
    (s.mem.writeBytes (s.effectiveAddress 0) (bcdDigits b)).read (s.i.toNat + k) = (bcdDigits b)[k]'hk :=
  s.mem.read_writeBytes_inside (s.effectiveAddress 0) k (bcdDigits b) hk (by simp [bcdDigits, memSize])

/-- The register file stored from I on: V[r] at I + r, for each register below n (R155). -/
theorem State.read_dumpRegs_reg {n : Nat} (hn : n ≤ 16) {r : RegIdx} (hr : r.toNat < n) :
    (s.dumpRegs n).read (s.i.toNat + r.toNat) = s.readV r := by
  have hread := s.read_dumpRegs_inside hr hn
  rwa [BitVec.ofNat_toNat, BitVec.setWidth_eq] at hread

end Blocks

/-! ### What writes I, and what lowers it (R151) -/

@[simp] theorem State.skipIf_i (s : State) (c : Bool) : (s.skipIf c).i = s.i := by cases c <;> rfl

@[simp] theorem State.loadRegs_i (s : State) (n : Nat) : (s.loadRegs n).i = s.i := by rw [State.loadRegs_frame]

section ExecI
variable {s t : State}

theorem execCall_i {nnn : Addr12} (h : execCall nnn s = .next t) : t.i = s.i := by
  rcases execCall_cases nnn s with ⟨-, h'⟩ | ⟨-, h'⟩ <;> cases h'.symm.trans h <;> rfl

theorem execRet_i (h : execRet s = .next t) : t.i = s.i := by
  rcases execRet_cases s with ⟨_, _, -, h'⟩ | ⟨-, h'⟩ <;> cases h'.symm.trans h <;> rfl

theorem execLdVxK_i {x : RegIdx} (h : execLdVxK x s = .next t) : t.i = s.i := by
  cases h
  cases s.chosenKey <;> rfl

/-- No instruction but ANNN, FX1E and FX29 changes I (R151). -/
theorem exec_i {i : Instr} (h : exec i s = .next t) (hi : ∀ n x, i ≠ .ldI n ∧ i ≠ .addI x ∧ i ≠ .ldF x) :
    t.i = s.i := by
  cases i
  case ldI n => exact absurd rfl (hi n 0).1
  case addI x => exact absurd rfl (hi 0 x).2.1
  case ldF x => exact absurd rfl (hi 0 x).2.2
  case call nnn => exact execCall_i h
  case ret => exact execRet_i h
  case ldVxK x => exact execLdVxK_i h
  case ldVxMem x => cases h; exact s.loadRegs_i _
  case seImm | sneImm | seReg | sneReg | skp | sknp => cases h; exact s.skipIf_i _
  all_goals cases h; rfl

/-- FX1E adds modulo 65536 (R158). -/
theorem exec_addI_i {x : RegIdx} (h : exec (.addI x) s = .next t) :
    t.i.toNat = (s.i.toNat + (s.readV x).toNat) % 65536 := by
  cases h
  rw [State.setFlag_eq, State.setV_i, State.setI_i, BitVec.toNat_add, BitVec.toNat_setWidth_of_le (by decide)]

/-- FX1E lowers I only when its sum wraps (R151, R158). -/
theorem exec_addI_wraps_of_lt {x : RegIdx} (h : exec (.addI x) s = .next t) (hlt : t.i.toNat < s.i.toNat) :
    65535 < s.i.toNat + (s.readV x).toNat := by
  by_contra hle
  rw [exec_addI_i h, Nat.mod_eq_of_lt (by omega)] at hlt
  omega

/-- What can lower I (R151). -/
theorem exec_lowers_i {i : Instr} (h : exec i s = .next t) (hlt : t.i.toNat < s.i.toNat) :
    (∃ nnn, i = .ldI nnn) ∨ (∃ x, i = .addI x ∧ 65535 < s.i.toNat + (s.readV x).toNat) ∨ ∃ x, i = .ldF x := by
  cases i
  case ldI nnn => exact .inl ⟨nnn, rfl⟩
  case addI x => exact .inr (.inl ⟨x, rfl, exec_addI_wraps_of_lt h hlt⟩)
  case ldF x => exact .inr (.inr ⟨x, rfl⟩)
  all_goals exact absurd (congrArg BitVec.toNat (exec_i h (by simp))) hlt.ne

end ExecI

/-! ### The statements -/

/-- Settles O26: the words of the row, and the block write of three digits, inside and outside its addresses. -/
theorem bcdStoresThreeDigits : Obligations.BcdStoresThreeDigits := by
  unfold Obligations.BcdStoresThreeDigits
  refine ⟨encodedAs_ldB, fun x s => ⟨_, rfl, rfl, ?_, ?_, ?_, fun a ha => ?_⟩⟩
  · exact s.read_bcdDigits_inside (s.readV x) (k := 0) (by decide)
  · exact s.read_bcdDigits_inside (s.readV x) (k := 1) (by decide)
  · exact s.read_bcdDigits_inside (s.readV x) (k := 2) (by decide)
  · exact s.mem.read_writeBytes_outside (s.effectiveAddress 0) a (bcdDigits (s.readV x)) ha

/-- Settles O27: the words of the row, and the register dump, inside and outside its addresses. -/
theorem registerDumpStoresUpToX : Obligations.RegisterDumpStoresUpToX := by
  unfold Obligations.RegisterDumpStoresUpToX
  refine ⟨encodedAs_ldMemVx, fun x s => ⟨_, rfl, rfl, fun r hr => ?_, fun a ha => ?_⟩⟩
  · exact s.read_dumpRegs_reg x.isLt (Nat.lt_succ_of_le hr)
  · exact s.read_dumpRegs_outside (x.toNat + 1) a fun k hk => ha k (Nat.le_of_lt_succ hk)

/-- Settles O28: the words of the row, and what each register holds after the load, up to X and above it. -/
theorem registerLoadReadsUpToX : Obligations.RegisterLoadReadsUpToX := by
  unfold Obligations.RegisterLoadReadsUpToX
  refine ⟨encodedAs_ldVxMem, fun x s => ⟨_, rfl, s.loadRegs_frame _, fun r hr => ?_, fun r hr => ?_⟩⟩
  · rw [s.readV_loadRegs x.isLt, if_pos (Nat.lt_succ_of_le hr)]
    exact (s.mem.read_mod _).symm
  · rw [s.readV_loadRegs x.isLt, if_neg (Nat.not_lt.2 hr)]

/-- Settles O24: the words of the two rows, one write of a register or of I, and what can lower I. -/
theorem loadImmediateSetsTheRegister : Obligations.LoadImmediateSetsTheRegister := by
  unfold Obligations.LoadImmediateSetsTheRegister
  refine ⟨encodedAs_ldImm, encodedAs_ldI, fun x nn s => ⟨s.setV x nn, rfl, s.writesOnly_setV x nn⟩, fun nnn s => ?_,
    fun i s t => exec_lowers_i⟩
  rw [BitVec.ofNat_toNat]
  rfl

end Sys2Proof.Machine
end

section
/-! SUPPORT. The rows of the opcode map that are one whole word, and the picture with every pixel off, and with them the
statement on 00E0 (30_encoding.md R76, R80; 44_display.md R171). -/

namespace Sys2Proof.Machine

/-! ### Rows of one word (R76, R80) -/

/-- A row whose mask keeps every bit: it is enough that the one word of the instruction decodes to it. -/
theorem encodedAs_of_decode_encode {i : Instr} (h : decode (encode i) = .ok i) :
    EncodedAs 0xFFFF (encode i) (fun _ => i) := by
  intro w
  rw [show (0xFFFF : Word) = BitVec.allOnes 16 from rfl, BitVec.and_allOnes]
  refine ⟨?_, fun hw => (encode_of_decode hw).symm⟩
  rintro rfl
  exact h

theorem encodedAs_cls : EncodedAs 0xFFFF 0x00E0 (fun _ => .cls) := encodedAs_of_decode_encode (i := .cls) rfl

/-! ### The blank picture (R171) -/

/-- Every pixel is off: the rows of the surface hold no `true`, and outside it a pixel counts as off (R30). -/
@[simp] theorem pixelAt_blankDisplay (w h x y : Nat) : pixelAt (blankDisplay w h) x y = false := by
  rw [pixelAt_eq, blankDisplay, List.getElem?_replicate]
  split
  · rw [Option.getD_some, List.getElem?_getD_replicate_default_eq]
  · rfl

/-! ### The statement -/

/-- Settles O31: the one word of the row, and the write of the blank picture with its event. -/
theorem clearTurnsEveryPixelOff : Obligations.ClearTurnsEveryPixelOff := by
  unfold Obligations.ClearTurnsEveryPixelOff
  exact ⟨encodedAs_cls, fun s => ⟨_, rfl, rfl, pixelAt_blankDisplay s.width s.height,
    blankDisplay_shape s.width s.height⟩⟩

end Sys2Proof.Machine
end

section
/-! SUPPORT. The decrements of DT under an Update, and what leaves DT alone, and with them the statement on the
delay-timer clock (60_exceptions.md R226). -/

namespace Sys2Proof.Machine

/-! ### Decrements of DT (R226) -/

@[simp] theorem decrementDt_zero (dt : Byte) : decrementDt dt 0 = dt :=
  BitVec.eq_of_toNat_eq (decrementDt_toNat dt 0)

/-- A zero DT stays zero. -/
@[simp] theorem decrementDt_of_zero (n : Nat) : decrementDt 0 n = 0 :=
  BitVec.eq_of_toNat_eq ((decrementDt_toNat 0 n).trans (Nat.zero_sub n))

theorem decrementDt_decrementDt (dt : Byte) (m n : Nat) :
    decrementDt (decrementDt dt m) n = decrementDt dt (m + n) := by
  apply BitVec.eq_of_toNat_eq
  rw [decrementDt_toNat, decrementDt_toNat, decrementDt_toNat, Nat.sub_sub]

/-- n single decrements are one decrement by n: the clamp at 0 loses nothing. -/
theorem iterate_decrementDt_one (dt : Byte) (n : Nat) : (fun d => decrementDt d 1)^[n] dt = decrementDt dt n := by
  induction n with
  | zero => exact (decrementDt_zero dt).symm
  | succ n ih => rw [Function.iterate_succ_apply', ih, decrementDt_decrementDt]

/-! ### What leaves DT alone -/

@[simp] theorem State.skipIf_dt (s : State) (c : Bool) : (s.skipIf c).dt = s.dt := by cases c <;> rfl

@[simp] theorem State.loadRegs_dt (s : State) (n : Nat) : (s.loadRegs n).dt = s.dt := by rw [State.loadRegs_frame]

section ExecDt
variable {s t : State}

theorem execCall_dt {nnn : Addr12} (h : execCall nnn s = .next t) : t.dt = s.dt := by
  rcases execCall_cases nnn s with ⟨-, h'⟩ | ⟨-, h'⟩ <;> cases h'.symm.trans h <;> rfl

theorem execRet_dt (h : execRet s = .next t) : t.dt = s.dt := by
  rcases execRet_cases s with ⟨_, _, -, h'⟩ | ⟨-, h'⟩ <;> cases h'.symm.trans h <;> rfl

theorem execLdVxK_dt {x : RegIdx} (h : execLdVxK x s = .next t) : t.dt = s.dt := by
  cases h
  cases s.chosenKey <;> rfl

/-- No instruction but FX15 changes DT (R191, R226). -/
theorem exec_dt {i : Instr} (h : exec i s = .next t) (hi : ∀ x, i ≠ .ldDTVx x) : t.dt = s.dt := by
  cases i
  case ldDTVx x => exact absurd rfl (hi x)
  case call nnn => exact execCall_dt h
  case ret => exact execRet_dt h
  case ldVxK x => exact execLdVxK_dt h
  case ldVxMem x => cases h; exact s.loadRegs_dt _
  case seImm | sneImm | seReg | sneReg | skp | sknp => cases h; exact s.skipIf_dt _
  all_goals cases h; rfl

end ExecDt

/-! ### The statement -/

/-- Settles O43: an Update's decrement by the n due ticks as n single ones, and the frame of the execute phase. -/
theorem delayTimerDecrementsAndClamps : Obligations.DelayTimerDecrementsAndClamps := by
  unfold Obligations.DelayTimerDecrementsAndClamps
  refine ⟨fun s delta => ⟨?_, ?_, fun d => rfl⟩, fun n => ?_, fun i s t => exec_dt⟩
  · rw [Nat.max_zero]
    exact decrementDt_toNat s.dt _
  · exact (iterate_decrementDt_one s.dt _).symm
  · rw [iterate_decrementDt_one, decrementDt_of_zero]

end Sys2Proof.Machine
end

section
/-! SUPPORT. Every operation of the machine under another trace, and with it the statement that the trace is only
appended to and never read (60_exceptions.md R232). -/

namespace Sys2Proof.Machine

/-! ### A call, a return and a step, from their conditions (R100, R136, R137, R225) -/

section Conditions
variable {s : State}

theorem execCall_of_room {nnn : Addr12} (h : s.stackLimit ≠ some s.stack.length) :
    execCall nnn s = .next ({ s with stack := s.pc :: s.stack }.setPc nnn.toNat) := by
  rcases execCall_cases nnn s with ⟨-, hs⟩ | ⟨hfull, -⟩
  · exact hs
  · exact absurd hfull h

theorem execCall_of_full {nnn : Addr12} (h : s.stackLimit = some s.stack.length) :
    execCall nnn s = .next (s.raise (.stackOverflow s.fetchAddress)) := by
  rcases execCall_cases nnn s with ⟨hroom, -⟩ | ⟨-, hs⟩
  · exact absurd h hroom
  · exact hs

theorem execRet_of_cons {ret : Word} {rest : List Word} (h : s.stack = ret :: rest) :
    execRet s = .next ({ s with stack := rest }.setPc ret.toNat) := by
  simp [execRet, State.pop, h]

theorem execRet_of_nil (h : s.stack = []) : execRet s = .next (s.raise (.stackUnderflow s.fetchAddress)) := by
  simp [execRet, State.pop, h]

theorem step_of_idle (hr : s.halted = none) (hd : s.dueSteps = 0) : step s = .next s.nextUpdate := by
  simp [step, hr, hd]

theorem State.runStep_of_error {e : DecodeError} (h : decode s.fetchWord = .error e) :
    s.runStep = .next s.unknownOpcode := by
  simp [State.runStep, h]

end Conditions

/-! ### The machine under another trace -/

/-- `s` with the output so far replaced. -/
def State.withTrace (s : State) (earlier : List Event) : State := { s with trace := earlier }

/-- From `s` the operation leads to `t` by appending events to the trace, and it does the same, with the same events,
whatever was output earlier (R232). -/
def OnlyAppends (f : State → Result) (s t : State) : Prop :=
  ∃ events, t.trace = s.trace ++ events ∧
    ∀ earlier, f (s.withTrace earlier) = .next (t.withTrace (earlier ++ events))

/-- An operation that emits nothing. -/
theorem OnlyAppends.of_silent {f : State → Result} {s t : State} (htrace : t.trace = s.trace)
    (hsame : ∀ earlier, f (s.withTrace earlier) = .next (t.withTrace earlier)) : OnlyAppends f s t :=
  ⟨[], by rw [htrace, List.append_nil], fun earlier => by rw [List.append_nil, hsame]⟩

section WithTrace
variable (s : State)

@[simp] theorem State.skipIf_trace (c : Bool) : (s.skipIf c).trace = s.trace := by cases c <;> rfl

@[simp] theorem State.loadRegs_trace (n : Nat) : (s.loadRegs n).trace = s.trace := by rw [State.loadRegs_frame]

variable (earlier : List Event)

theorem State.skipIf_withTrace (c : Bool) : (s.withTrace earlier).skipIf c = (s.skipIf c).withTrace earlier := by
  cases c <;> rfl

theorem State.dumpRegs_withTrace (n : Nat) : (s.withTrace earlier).dumpRegs n = s.dumpRegs n := by
  induction n with
  | zero => rfl
  | succ n ih => rw [State.dumpRegs, ih]; rfl

theorem State.loadRegs_withTrace (n : Nat) :
    (s.withTrace earlier).loadRegs n = (s.loadRegs n).withTrace earlier := by
  induction n with
  | zero => rfl
  | succ n ih => rw [State.loadRegs, ih]; rfl

end WithTrace

section ExecOnlyAppends
variable {s t : State}

theorem execCall_onlyAppends {nnn : Addr12} (h : execCall nnn s = .next t) : OnlyAppends (execCall nnn) s t := by
  rcases execCall_cases nnn s with ⟨hroom, hs⟩ | ⟨hfull, hs⟩ <;> cases hs.symm.trans h
  · exact .of_silent rfl fun earlier => execCall_of_room (s := s.withTrace earlier) hroom
  · exact ⟨[.fault _], rfl, fun earlier => execCall_of_full (s := s.withTrace earlier) hfull⟩

theorem execRet_onlyAppends (h : execRet s = .next t) : OnlyAppends execRet s t := by
  rcases execRet_cases s with ⟨ret, rest, hstack, hs⟩ | ⟨hempty, hs⟩ <;> cases hs.symm.trans h
  · exact .of_silent rfl fun earlier => execRet_of_cons (s := s.withTrace earlier) hstack
  · exact ⟨[.fault _], rfl, fun earlier => execRet_of_nil (s := s.withTrace earlier) hempty⟩

theorem execLdVxK_onlyAppends {x : RegIdx} (h : execLdVxK x s = .next t) : OnlyAppends (execLdVxK x) s t := by
  have hkey (earlier : List Event) : (s.withTrace earlier).chosenKey = s.chosenKey := rfl
  cases h
  apply OnlyAppends.of_silent
  · cases s.chosenKey <;> rfl
  · intro earlier
    rw [execLdVxK, hkey]
    cases s.chosenKey <;> rfl

/-- 00E0, DXYN and FX18 emit their events, a call and a return may report a fault, and every other instruction emits
nothing; none reads the trace (R232). -/
theorem exec_onlyAppends {i : Instr} (h : exec i s = .next t) : OnlyAppends (exec i) s t := by
  cases i
  case call nnn => exact execCall_onlyAppends h
  case ret => exact execRet_onlyAppends h
  case cls | drw | ldSTVx => cases h; exact ⟨_, rfl, fun _ => rfl⟩
  case ldVxK x => exact execLdVxK_onlyAppends h
  case ldMemVx x =>
    cases h
    exact .of_silent rfl fun earlier =>
      congrArg (fun m => Host.Outcome.next ((s.withTrace earlier).setMem m)) (s.dumpRegs_withTrace earlier _)
  case ldVxMem x =>
    cases h
    exact .of_silent (s.loadRegs_trace _) fun earlier => congrArg Host.Outcome.next (s.loadRegs_withTrace earlier _)
  case seImm | sneImm | seReg | sneReg | skp | sknp =>
    cases h
    exact .of_silent (s.skipIf_trace _) fun earlier => congrArg Host.Outcome.next (s.skipIf_withTrace earlier _)
  all_goals cases h; exact .of_silent rfl fun _ => rfl

/-- The start of an Update emits nothing, an unknown word reports a fault, and a Step emits what its instruction
emits (R211, R225, R232). -/
theorem step_onlyAppends (h : step s = .next t) : OnlyAppends step s t := by
  obtain ⟨hr, ⟨hd, rfl⟩ | ⟨hd, i, hdec, hexec⟩ | ⟨hd, ⟨e, hdec⟩, rfl⟩⟩ := step_cases h
  · exact .of_silent rfl fun earlier => step_of_idle (s := s.withTrace earlier) hr hd
  · obtain ⟨events, htrace, hsame⟩ := exec_onlyAppends hexec
    refine ⟨events, htrace, fun earlier => ?_⟩
    rw [step_of_due (s := s.withTrace earlier) hr hd, State.runStep_of_decode (s := s.withTrace earlier) hdec]
    exact hsame earlier
  · refine ⟨[.fault _], rfl, fun earlier => ?_⟩
    exact (step_of_due (s := s.withTrace earlier) hr hd).trans
      (State.runStep_of_error (s := s.withTrace earlier) hdec)

end ExecOnlyAppends

/-! ### The statement -/

/-- Settles O60: the execute phase and the step only append, each by its cases. -/
theorem traceIsOnlyAppendedTo : Obligations.TraceIsOnlyAppendedTo := by
  unfold Obligations.TraceIsOnlyAppendedTo
  exact ⟨fun i s t => exec_onlyAppends, fun s t => step_onlyAppends⟩

end Sys2Proof.Machine
end

section
/-! SUPPORT. What memory holds below the program after a Reset, and with it the statement on the font
(70_reset_and_hazards.md R250, R252, R253). -/

namespace Sys2Proof.Machine

theorem Memory.background_of_lt (font : Vector Byte 80) {a : Nat} (h : a < 80) : Memory.background font a = font[a] :=
  dif_pos h

/-- A ROM that fits runs from 0x200 up to 0xFFF at most, so that none of its bytes comes around to an address below 0x200,
and what Reset writes before the ROM stays there (R250, R252). -/
theorem Memory.read_afterReset_of_lt (m : Memory) {rom : List Byte} {a : Nat} (hrom : rom.length ≤ romRoom)
    (ha : a < programStart) : (m.afterReset rom).read a = Memory.background m.font a := by
  simp only [romRoom, programStart] at hrom ha
  have hbelow : a % memSize = a := Nat.mod_eq_of_lt (by simp only [memSize]; omega)
  have houtside : ∀ k < rom.length, a % memSize ≠ (programStart + k) % memSize := by
    intro k hk
    simp only [programStart, memSize]
    omega
  rw [Memory.afterReset, Memory.read_writeBytes_outside _ _ _ _ houtside, Memory.read_empty, hbelow]

/-- Settles O48: a Reset that answers has accepted a ROM that fits, and that ROM leaves the font where it was written. -/
theorem fontIsWrittenOnEveryReset : Obligations.FontIsWrittenOnEveryReset := by
  unfold Obligations.FontIsWrittenOnEveryReset
  intro s rom legacy wrap hz t h k hk
  obtain ⟨-, haccepted, rfl⟩ := State.hostReset_eq_next.1 h
  obtain ⟨-, -, -, hrom, -⟩ := launchRefusal_eq_none.1 haccepted
  calc (s.mem.afterReset rom).read k
      _ = Memory.background s.mem.font k := s.mem.read_afterReset_of_lt hrom (Nat.lt_trans hk (by decide))
      _ = s.mem.font[k] := Memory.background_of_lt s.mem.font hk

end Sys2Proof.Machine
end

section
/-! SUPPORT. The encoding of every instruction decodes to it, the words of each of the 34 rows, and that every other word
is an unknown opcode, and with them the statements on the decoder (30_encoding.md R72, R74, R76, R80 to R84). -/

namespace Sys2Proof

/-! ### Decoding what an instruction encodes to (R76) -/

/-- The decoder reads back every instruction: the fields of its word select its row and are its own. -/
theorem decode_encode (i : Instr) : decode (encode i) = .ok i := by
  cases i
  case cls | ret => rfl
  case ldReg | orReg | andReg | xorReg | addReg | subReg | shr | subn | shl => simp [decode, encode, decodeFamily8]
  case skp | sknp => simp [decode, encode, decodeFamilyE]
  case ldVxDT | ldVxK | ldDTVx | ldSTVx | addI | ldF | ldB | ldMemVx | ldVxMem =>
    simp [decode, encode, decodeFamilyF]
  all_goals simp [decode, encode]

/-- The encoding of an instruction is a word of its own row, one of the 34 (R76). -/
theorem encodedWord (i : Instr) : Laws.EncodedWord.Statement i := by
  cases i
  case cls => exact Laws.EncodedWord.cls
  case ret => exact Laws.EncodedWord.ret
  case jp => exact Laws.EncodedWord.jp _
  case call => exact Laws.EncodedWord.call _
  case seImm => exact Laws.EncodedWord.seImm _ _
  case sneImm => exact Laws.EncodedWord.sneImm _ _
  case seReg => exact Laws.EncodedWord.seReg _ _ _
  case ldImm => exact Laws.EncodedWord.ldImm _ _
  case addImm => exact Laws.EncodedWord.addImm _ _
  case ldReg => exact Laws.EncodedWord.ldReg _ _
  case orReg => exact Laws.EncodedWord.orReg _ _
  case andReg => exact Laws.EncodedWord.andReg _ _
  case xorReg => exact Laws.EncodedWord.xorReg _ _
  case addReg => exact Laws.EncodedWord.addReg _ _
  case subReg => exact Laws.EncodedWord.subReg _ _
  case shr => exact Laws.EncodedWord.shr _ _
  case subn => exact Laws.EncodedWord.subn _ _
  case shl => exact Laws.EncodedWord.shl _ _
  case sneReg => exact Laws.EncodedWord.sneReg _ _ _
  case ldI => exact Laws.EncodedWord.ldI _
  case jpV0 => exact Laws.EncodedWord.jpV0 _
  case rnd => exact Laws.EncodedWord.rnd _ _
  case drw => exact Laws.EncodedWord.drw _ _ _
  case skp => exact Laws.EncodedWord.skp _
  case sknp => exact Laws.EncodedWord.sknp _
  case ldVxDT => exact Laws.EncodedWord.ldVxDT _
  case ldVxK => exact Laws.EncodedWord.ldVxK _
  case ldDTVx => exact Laws.EncodedWord.ldDTVx _
  case ldSTVx => exact Laws.EncodedWord.ldSTVx _
  case addI => exact Laws.EncodedWord.addI _
  case ldF => exact Laws.EncodedWord.ldF _
  case ldB => exact Laws.EncodedWord.ldB _
  case ldMemVx => exact Laws.EncodedWord.ldMemVx _
  case ldVxMem => exact Laws.EncodedWord.ldVxMem _

/-- A word that decodes is a word of the row of its instruction (R76). -/
theorem row_of_decode {w : Word} {i : Instr} (h : decode w = .ok i) : i.row ∈ opcodeTable ∧ i.row.matchesWord w := by
  obtain ⟨hmem, hmatch⟩ := encodedWord i
  exact ⟨hmem, encode_of_decode h ▸ hmatch⟩

/-! ### The decoder's one error (R80 to R82, R103) -/

section DecodeError
variable {w : Word} {e : DecodeError}

theorem decodeFamily0_error (h : decodeFamily0 w = .error e) : e = .unknownOpcode w := by
  unfold decodeFamily0 at h
  split_ifs at h; cases h; rfl

theorem decodeFamily8_error (h : decodeFamily8 w = .error e) : e = .unknownOpcode w := by
  unfold decodeFamily8 at h
  split at h <;> cases h; rfl

theorem decodeFamilyE_error (h : decodeFamilyE w = .error e) : e = .unknownOpcode w := by
  unfold decodeFamilyE at h
  split_ifs at h; cases h; rfl

theorem decodeFamilyF_error (h : decodeFamilyF w = .error e) : e = .unknownOpcode w := by
  unfold decodeFamilyF at h
  split_ifs at h; cases h; rfl

/-- A word that does not decode is rejected as an unknown opcode, and the error names it. -/
theorem decode_error (h : decode w = .error e) : e = .unknownOpcode w := by
  unfold decode at h
  split at h
  case h_1 => exact decodeFamily0_error h
  case h_9 => exact decodeFamily8_error h
  case h_15 => exact decodeFamilyE_error h
  case h_16 => exact decodeFamilyF_error h
  case h_17 => cases h; rfl
  all_goals cases h

end DecodeError

/-! ### Words that no two rows share (R84) -/

/-- Two rows disagree on a bit that both fix. -/
def OpcodeRow.Conflicts (a b : OpcodeRow) : Prop := a.pattern &&& b.mask ≠ b.pattern &&& a.mask

/-- Rows in conflict have no word in common: on the bits both masks keep, it would have both patterns. -/
theorem OpcodeRow.Conflicts.disjoint {a b : OpcodeRow} (h : a.Conflicts b) (w : Word) (ha : a.matchesWord w) :
    ¬ b.matchesWord w := by
  intro hb
  apply h
  rw [← ha, ← hb, BitVec.and_assoc, BitVec.and_comm a.mask, BitVec.and_assoc]

theorem opcodeTable_conflicts : opcodeTable.Pairwise OpcodeRow.Conflicts := by
  unfold OpcodeRow.Conflicts
  decide

end Sys2Proof

namespace Sys2Proof.Machine

/-! ### The words of the remaining rows (R76) -/

theorem encodedAs_ret : EncodedAs 0xFFFF 0x00EE (fun _ => .ret) := encodedAs_of_decode_encode (i := .ret) rfl

theorem encodedAs_call : EncodedAs 0xF000 0x2000 (fun w => .call (fieldNNN w)) :=
  encodedAs_of_fieldF (f := 2) (fun w h => by simp [decode, h]) (fun w => fieldF_formatA 2 (fieldNNN w))

theorem encodedAs_seReg : EncodedAs 0xF000 0x5000 (fun w => .seReg (fieldX w) (fieldY w) (fieldN w)) :=
  encodedAs_of_fieldF (f := 5) (fun w h => by simp [decode, h])
    (fun w => fieldF_formatR 5 (fieldX w) (fieldY w) (fieldN w))

theorem encodedAs_sneReg : EncodedAs 0xF000 0x9000 (fun w => .sneReg (fieldX w) (fieldY w) (fieldN w)) :=
  encodedAs_of_fieldF (f := 9) (fun w h => by simp [decode, h])
    (fun w => fieldF_formatR 9 (fieldX w) (fieldY w) (fieldN w))

theorem encodedAs_jpV0 : EncodedAs 0xF000 0xB000 (fun w => .jpV0 (fieldNNN w)) :=
  encodedAs_of_fieldF (f := 0xB) (fun w h => by simp [decode, h]) (fun w => fieldF_formatA 0xB (fieldNNN w))

theorem encodedAs_rnd : EncodedAs 0xF000 0xC000 (fun w => .rnd (fieldX w) (fieldNN w)) :=
  encodedAs_of_fieldF (f := 0xC) (fun w h => by simp [decode, h]) (fun w => fieldF_formatI 0xC (fieldX w) (fieldNN w))

theorem encodedAs_drw : EncodedAs 0xF000 0xD000 (fun w => .drw (fieldX w) (fieldY w) (fieldN w)) :=
  encodedAs_of_fieldF (f := 0xD) (fun w h => by simp [decode, h])
    (fun w => fieldF_formatR 0xD (fieldX w) (fieldY w) (fieldN w))

theorem encodedAs_skp : EncodedAs 0xF0FF 0xE09E (fun w => .skp (fieldX w)) :=
  encodedAs_of_fieldF_fieldNN (f := 0xE) (nn := 0x9E) (fun w hf hnn => by simp [decode, decodeFamilyE, hf, hnn])
    (fun _ => rfl)

theorem encodedAs_sknp : EncodedAs 0xF0FF 0xE0A1 (fun w => .sknp (fieldX w)) :=
  encodedAs_of_fieldF_fieldNN (f := 0xE) (nn := 0xA1) (fun w hf hnn => by simp [decode, decodeFamilyE, hf, hnn])
    (fun _ => rfl)

theorem encodedAs_ldVxDT : EncodedAs 0xF0FF 0xF007 (fun w => .ldVxDT (fieldX w)) :=
  encodedAs_of_fieldF_fieldNN (f := 0xF) (nn := 0x07) (fun w hf hnn => by simp [decode, decodeFamilyF, hf, hnn])
    (fun _ => rfl)

theorem encodedAs_ldVxK : EncodedAs 0xF0FF 0xF00A (fun w => .ldVxK (fieldX w)) :=
  encodedAs_of_fieldF_fieldNN (f := 0xF) (nn := 0x0A) (fun w hf hnn => by simp [decode, decodeFamilyF, hf, hnn])
    (fun _ => rfl)

theorem encodedAs_ldDTVx : EncodedAs 0xF0FF 0xF015 (fun w => .ldDTVx (fieldX w)) :=
  encodedAs_of_fieldF_fieldNN (f := 0xF) (nn := 0x15) (fun w hf hnn => by simp [decode, decodeFamilyF, hf, hnn])
    (fun _ => rfl)

theorem encodedAs_ldSTVx : EncodedAs 0xF0FF 0xF018 (fun w => .ldSTVx (fieldX w)) :=
  encodedAs_of_fieldF_fieldNN (f := 0xF) (nn := 0x18) (fun w hf hnn => by simp [decode, decodeFamilyF, hf, hnn])
    (fun _ => rfl)

theorem encodedAs_addI : EncodedAs 0xF0FF 0xF01E (fun w => .addI (fieldX w)) :=
  encodedAs_of_fieldF_fieldNN (f := 0xF) (nn := 0x1E) (fun w hf hnn => by simp [decode, decodeFamilyF, hf, hnn])
    (fun _ => rfl)

theorem encodedAs_ldF : EncodedAs 0xF0FF 0xF029 (fun w => .ldF (fieldX w)) :=
  encodedAs_of_fieldF_fieldNN (f := 0xF) (nn := 0x29) (fun w hf hnn => by simp [decode, decodeFamilyF, hf, hnn])
    (fun _ => rfl)

/-- Under the mask of a family 8 row, a word is known by its first and its last nibble. -/
theorem and_mask_R_eq_iff (w : Word) (f n : Nibble) :
    w &&& 0xF00F = formatR f 0 0 n ↔ fieldF w = f ∧ fieldN w = n := by
  rw [and_mask_R]
  refine ⟨fun h => ⟨by simpa using congrArg fieldF h, by simpa using congrArg fieldN h⟩, ?_⟩
  rintro ⟨hf, hn⟩
  rw [hf, hn]

/-- A family 8 row, whose instruction has the fields X and Y: its words are the encodings of its instructions (R81). -/
theorem encodedAs_of_fieldF_fieldN {n : Nibble} {instr : RegIdx → RegIdx → Instr}
    (hencode : ∀ x y, encode (instr x y) = formatR 8 x y n) :
    EncodedAs 0xF00F (formatR 8 0 0 n) (fun w => instr (fieldX w) (fieldY w)) := by
  refine encodedAs_of_row (row := ⟨0xF00F, formatR 8 0 0 n⟩) (fun w h => ?_) (fun w => ?_)
  · obtain ⟨hf, hn⟩ := (and_mask_R_eq_iff w 8 n).1 h
    have hw : encode (instr (fieldX w) (fieldY w)) = w := by rw [hencode, ← hf, ← hn, formatR_fields]
    simpa only [hw] using decode_encode (instr (fieldX w) (fieldY w))
  · rw [hencode]
    exact Laws.EncodedWord.formatR_row 8 (fieldX w) (fieldY w) n

/-! ### The whole opcode map (R76) -/

/-- Every row of the opcode map is the row of some instruction. -/
theorem row_decodes : ∀ r ∈ opcodeTable, ∃ instr, EncodedAs r.mask r.pattern instr := by
  simp only [opcodeTable, List.cons_append, List.nil_append, List.forall_mem_cons]
  refine ⟨⟨_, encodedAs_cls⟩, ⟨_, encodedAs_ret⟩, ⟨_, encodedAs_jp⟩, ⟨_, encodedAs_call⟩, ⟨_, encodedAs_seImm⟩,
    ⟨_, encodedAs_sneImm⟩, ⟨_, encodedAs_seReg⟩, ⟨_, encodedAs_ldImm⟩, ⟨_, encodedAs_addImm⟩, ?_, ?_, ?_, ?_, ?_, ?_,
    ?_, ?_, ?_, ⟨_, encodedAs_sneReg⟩, ⟨_, encodedAs_ldI⟩, ⟨_, encodedAs_jpV0⟩, ⟨_, encodedAs_rnd⟩, ⟨_, encodedAs_drw⟩,
    ⟨_, encodedAs_skp⟩, ⟨_, encodedAs_sknp⟩, ⟨_, encodedAs_ldVxDT⟩, ⟨_, encodedAs_ldVxK⟩, ⟨_, encodedAs_ldDTVx⟩,
    ⟨_, encodedAs_ldSTVx⟩, ⟨_, encodedAs_addI⟩, ⟨_, encodedAs_ldF⟩, ⟨_, encodedAs_ldB⟩, ⟨_, encodedAs_ldMemVx⟩,
    ⟨_, encodedAs_ldVxMem⟩, List.forall_mem_nil _⟩
  · exact ⟨_, encodedAs_of_fieldF_fieldN (n := 0x0) (instr := .ldReg) fun _ _ => rfl⟩
  · exact ⟨_, encodedAs_of_fieldF_fieldN (n := 0x1) (instr := .orReg) fun _ _ => rfl⟩
  · exact ⟨_, encodedAs_of_fieldF_fieldN (n := 0x2) (instr := .andReg) fun _ _ => rfl⟩
  · exact ⟨_, encodedAs_of_fieldF_fieldN (n := 0x3) (instr := .xorReg) fun _ _ => rfl⟩
  · exact ⟨_, encodedAs_of_fieldF_fieldN (n := 0x4) (instr := .addReg) fun _ _ => rfl⟩
  · exact ⟨_, encodedAs_of_fieldF_fieldN (n := 0x5) (instr := .subReg) fun _ _ => rfl⟩
  · exact ⟨_, encodedAs_of_fieldF_fieldN (n := 0x6) (instr := .shr) fun _ _ => rfl⟩
  · exact ⟨_, encodedAs_of_fieldF_fieldN (n := 0x7) (instr := .subn) fun _ _ => rfl⟩
  · exact ⟨_, encodedAs_of_fieldF_fieldN (n := 0xE) (instr := .shl) fun _ _ => rfl⟩

/-- A word decodes exactly when it is a word of some row. -/
theorem decodes_iff (w : Word) : (∃ i, decode w = .ok i) ↔ ∃ r ∈ opcodeTable, r.matchesWord w := by
  constructor
  · rintro ⟨i, h⟩
    obtain ⟨hmem, hmatch⟩ := row_of_decode h
    exact ⟨i.row, hmem, hmatch⟩
  · rintro ⟨r, hmem, hmatch⟩
    obtain ⟨instr, hwords⟩ := row_decodes r hmem
    exact ⟨instr w, (hwords w).1 hmatch⟩

/-- A word of no row is rejected, by name (R80 to R82, R103). -/
theorem decode_of_no_row {w : Word} (h : ¬ ∃ r ∈ opcodeTable, r.matchesWord w) :
    decode w = .error (.unknownOpcode w) := by
  rcases hdec : decode w with e | i
  · rw [decode_error hdec]
  · exact absurd ((decodes_iff w).1 ⟨i, hdec⟩) h

/-! ### The statements -/

/-- Settles O1: the decoder reads back every encoding, and drops no bit of a word that decodes. -/
theorem decodeAndEncodeAgree : Obligations.DecodeAndEncodeAgree := by
  unfold Obligations.DecodeAndEncodeAgree
  exact ⟨decode_encode, fun w i => encode_of_decode⟩

/-- Settles O2: rows in conflict are disjoint, each row is the row of an instruction, and the decoder has one error. -/
theorem decodeAcceptsExactlyTheOpcodeMap : Obligations.DecodeAcceptsExactlyTheOpcodeMap := by
  unfold Obligations.DecodeAcceptsExactlyTheOpcodeMap
  exact ⟨⟨rfl, opcodeTable_conflicts.imp OpcodeRow.Conflicts.disjoint⟩,
    fun w => ⟨fun i => row_of_decode, decodes_iff w, decode_of_no_row⟩⟩

/-- Settles O5: the decoder run on nine written-out words. -/
theorem sampleWordsDecode : Obligations.SampleWordsDecode := by
  unfold Obligations.SampleWordsDecode
  decide

end Sys2Proof.Machine
end

section
/-! SUPPORT. The frame of every instruction, and what each instruction may write of the program counter, the stack, the
display, the halt status and VF, and with them the statements on who writes what (10_state.md; 20_memory.md section 11). -/

namespace Sys2Proof.Machine

/-! ### The frames of the operations with more than one outcome -/

section Frames
variable {s t : State}

theorem State.skipIf_frame (s : State) (c : Bool) : s.skipIf c = { s with pc := (s.skipIf c).pc } := by cases c <;> rfl

theorem execCall_frame {nnn : Addr12} (h : execCall nnn s = .next t) :
    t = { s with pc := t.pc, stack := t.stack, halted := t.halted, dueSteps := t.dueSteps, trace := t.trace } := by
  rcases execCall_cases nnn s with ⟨-, h'⟩ | ⟨-, h'⟩ <;> cases h'.symm.trans h <;> rfl

theorem execRet_frame (h : execRet s = .next t) :
    t = { s with pc := t.pc, stack := t.stack, halted := t.halted, dueSteps := t.dueSteps, trace := t.trace } := by
  rcases execRet_cases s with ⟨_, _, -, h'⟩ | ⟨-, h'⟩ <;> cases h'.symm.trans h <;> rfl

theorem execLdVxK_frame {x : RegIdx} (h : execLdVxK x s = .next t) : t = { s with v := t.v, pc := t.pc } := by
  cases h
  cases s.chosenKey <;> rfl

/-! ### The frame of the execute phase -/

variable {i : Instr}

/-- Only a call and a return write the stack, the halt status and the count of due Steps, and no instruction writes the
configuration, the clocks' remainders or the inputs. -/
theorem exec_frame_of_ne_call_ret (h : exec i s = .next t) (hi : ∀ n, i ≠ .call n ∧ i ≠ .ret) :
    t = { s with
      v := t.v, i := t.i, pc := t.pc, mem := t.mem, display := t.display, dt := t.dt, trace := t.trace } := by
  cases i
  case call n => exact absurd rfl (hi n).1
  case ret => exact absurd rfl (hi 0).2
  case ldVxK x => rw [execLdVxK_frame h]
  case ldVxMem x => cases h; rw [s.loadRegs_frame]
  case seImm | sneImm | seReg | sneReg | skp | sknp => cases h; rw [s.skipIf_frame]
  all_goals cases h; rfl

/-- No instruction writes the configuration, the clocks' remainders or the inputs. -/
theorem exec_frame (h : exec i s = .next t) :
    t = { s with
      v := t.v, i := t.i, pc := t.pc, stack := t.stack, mem := t.mem, display := t.display, dt := t.dt
      halted := t.halted, dueSteps := t.dueSteps, trace := t.trace } := by
  by_cases hi : ∀ n, i ≠ .call n ∧ i ≠ .ret
  · rw [exec_frame_of_ne_call_ret h hi]
  · cases i
    case call n => rw [execCall_frame h]
    case ret => rw [execRet_frame h]
    all_goals exact absurd (by simp) hi

/-- Only 00E0 and DXYN write the display (R30). -/
theorem exec_display (h : exec i s = .next t) (hi : ∀ x y n, i ≠ .cls ∧ i ≠ .drw x y n) : t.display = s.display := by
  cases i
  case cls => exact absurd rfl (hi 0 0 0).1
  case drw x y n => exact absurd rfl (hi x y n).2
  case call n => exact (congrArg State.display (execCall_frame h) :)
  case ret => exact (congrArg State.display (execRet_frame h) :)
  case ldVxK x => exact (congrArg State.display (execLdVxK_frame h) :)
  case ldVxMem x => cases h; exact (congrArg State.display (s.loadRegs_frame _) :)
  case seImm | sneImm | seReg | sneReg | skp | sknp => cases h; exact (congrArg State.display (s.skipIf_frame _) :)
  all_goals cases h; rfl

/-- Skips, jumps, calls, returns and the key wait write `pc`, and no other instruction does (10_state.md section 4). -/
theorem exec_pc (h : exec i s = .next t)
    (hi : ∀ x y nn n nnn, i ≠ .seImm x nn ∧ i ≠ .sneImm x nn ∧ i ≠ .seReg x y n ∧ i ≠ .sneReg x y n ∧ i ≠ .skp x ∧
      i ≠ .sknp x ∧ i ≠ .ldVxK x ∧ i ≠ .jp nnn ∧ i ≠ .jpV0 nnn ∧ i ≠ .call nnn ∧ i ≠ .ret) : t.pc = s.pc := by
  cases i
  case seImm x nn | sneImm x nn => simpa using hi x 0 nn 0 0
  case seReg x y n | sneReg x y n => simpa using hi x y 0 n 0
  case skp x | sknp x | ldVxK x => simpa using hi x 0 0 0 0
  case jp nnn | jpV0 nnn | call nnn => simpa using hi 0 0 0 0 nnn
  case ret => simpa using hi 0 0 0 0 0
  case ldVxMem x => cases h; exact (congrArg State.pc (s.loadRegs_frame _) :)
  all_goals cases h; rfl

/-- The font of the memory image stays what it was when the machine was built (R254). -/
theorem exec_font (h : exec i s = .next t) : t.mem.font = s.mem.font := by
  by_cases hi : ∀ x, i ≠ .ldB x ∧ i ≠ .ldMemVx x
  · rw [exec_mem h hi]
  · cases i
    case ldB x => cases h; exact s.mem.writeBytes_font _ _
    case ldMemVx x => cases h; exact s.dumpRegs_font _
    all_goals exact absurd (by simp) hi

/-- An instruction goes on with the current Update, or raises a fatal condition and does nothing else (R215). -/
theorem exec_goes_on_or_raises (h : exec i s = .next t) :
    (t.halted = s.halted ∧ t.dueSteps = s.dueSteps) ∨ ∃ c, t = s.raise c := by
  by_cases hi : ∀ n, i ≠ .call n ∧ i ≠ .ret
  · have hframe := exec_frame_of_ne_call_ret h hi
    exact .inl ⟨(congrArg State.halted hframe :), (congrArg State.dueSteps hframe :)⟩
  · cases i
    case call n =>
      rcases execCall_cases n s with ⟨-, h'⟩ | ⟨-, h'⟩ <;> cases h'.symm.trans h
      · exact .inl ⟨rfl, rfl⟩
      · exact .inr ⟨_, rfl⟩
    case ret =>
      rcases execRet_cases s with ⟨_, _, -, h'⟩ | ⟨-, h'⟩ <;> cases h'.symm.trans h
      · exact .inl ⟨rfl, rfl⟩
      · exact .inr ⟨_, rfl⟩
    all_goals exact absurd (by simp) hi

/-! ### Configuration and build parameters (R8, R32, R254) -/

/-- The two states are of one machine under one configuration. -/
def SameConfig (s t : State) : Prop :=
  t.legacyShift = s.legacyShift ∧ t.wrapEdges = s.wrapEdges ∧ t.cpuHz = s.cpuHz ∧ t.width = s.width ∧
    t.height = s.height ∧ t.stackLimit = s.stackLimit ∧ t.mem.font = s.mem.font

theorem exec_sameConfig (h : exec i s = .next t) : SameConfig s t := by
  have hframe := exec_frame h
  exact ⟨(congrArg State.legacyShift hframe :), (congrArg State.wrapEdges hframe :), (congrArg State.cpuHz hframe :),
    (congrArg State.width hframe :), (congrArg State.height hframe :), (congrArg State.stackLimit hframe :),
    exec_font h⟩

theorem step_sameConfig (h : step s = .next t) : SameConfig s t := by
  obtain ⟨-, ⟨-, rfl⟩ | ⟨-, i, -, hexec⟩ | ⟨-, -, rfl⟩⟩ := step_cases h
  · exact ⟨rfl, rfl, rfl, rfl, rfl, rfl, rfl⟩
  · exact exec_sameConfig (s := s.beginStep) hexec
  · exact ⟨rfl, rfl, rfl, rfl, rfl, rfl, rfl⟩

end Frames

/-! ### Flag values (R21) -/

/-- The two values of a flag. -/
def IsFlag (f : Byte) : Prop := f = 0 ∨ f = 1

theorem isFlag_flagByte (b : Bool) : IsFlag (flagByte b) := by
  cases b
  · exact .inl rfl
  · exact .inr rfl

theorem isFlag_shrFlag : ∀ a : Byte, IsFlag (shrFlag a) := by unfold IsFlag; decide

theorem isFlag_shlFlag : ∀ a : Byte, IsFlag (shlFlag a) := by unfold IsFlag; decide

section Flags
variable {s t : State} {i : Instr}

/-- The two writes of R110 leave the flag in VF when the destination is another register. -/
theorem State.readV_flagThenResult_VF {x : RegIdx} (hx : x ≠ VF) (f : Byte) (result : State → Byte) :
    (s.flagThenResult x f result).readV VF = f := by
  obtain ⟨-, hflag, -⟩ := s.writesResultAndFlag_flagThenResult x f result
  exact hflag hx

/-- A flag-writing instruction with another destination leaves a flag in VF. -/
theorem exec_writes_flag (h : exec i s = .next t)
    (hi : (∃ x y, x ≠ VF ∧ (i = .addReg x y ∨ i = .subReg x y ∨ i = .shr x y ∨ i = .subn x y ∨ i = .shl x y)) ∨
      (∃ x, i = .addI x) ∨ ∃ x y n, i = .drw x y n) : IsFlag (t.readV VF) := by
  rcases hi with ⟨x, y, hx, rfl | rfl | rfl | rfl | rfl⟩ | ⟨x, rfl⟩ | ⟨x, y, n, rfl⟩ <;> cases h
  · rw [State.readV_flagThenResult_VF hx]; exact isFlag_flagByte _
  · rw [State.readV_flagThenResult_VF hx]; exact isFlag_flagByte _
  · rw [State.readV_flagThenResult_VF hx]; exact isFlag_shrFlag _
  · rw [State.readV_flagThenResult_VF hx]; exact isFlag_flagByte _
  · rw [State.readV_flagThenResult_VF hx]; exact isFlag_shlFlag _
  · rw [State.setFlag_eq, State.readV_setV_same]; exact isFlag_flagByte _
  · rw [State.setFlag_eq, State.readV_setV_same]; exact isFlag_flagByte _

/-- A load of the registers up to X stays below VF unless X is F (R156). -/
theorem State.readV_loadRegs_VF {x : RegIdx} (hx : x ≠ VF) : (s.loadRegs (x.toNat + 1)).readV VF = s.readV VF := by
  have hne : x.toNat ≠ VF.toNat := fun h => hx (BitVec.eq_of_toNat_eq h)
  have hlt := x.isLt
  have hVF : VF.toNat = 15 := rfl
  rw [s.readV_loadRegs hlt, if_neg (by omega)]

/-- An instruction that neither writes a flag nor has VF as its destination leaves VF alone. -/
theorem exec_keeps_VF (h : exec i s = .next t)
    (hflags : ∀ x y, i ≠ .addReg x y ∧ i ≠ .subReg x y ∧ i ≠ .shr x y ∧ i ≠ .subn x y ∧ i ≠ .shl x y)
    (haddI : ∀ x, i ≠ .addI x) (hdrw : ∀ x y n, i ≠ .drw x y n)
    (hdest : ∀ nn y, i ≠ .ldImm VF nn ∧ i ≠ .addImm VF nn ∧ i ≠ .rnd VF nn ∧ i ≠ .ldReg VF y ∧ i ≠ .orReg VF y ∧
      i ≠ .andReg VF y ∧ i ≠ .xorReg VF y)
    (hdt : i ≠ .ldVxDT VF) (hkey : i ≠ .ldVxK VF) (hload : i ≠ .ldVxMem VF) : t.readV VF = s.readV VF := by
  cases i
  case addReg x y | subReg x y | shr x y | subn x y | shl x y => simpa using hflags x y
  case addI x => exact absurd rfl (haddI x)
  case drw x y n => exact absurd rfl (hdrw x y n)
  case ldImm x nn | addImm x nn | rnd x nn =>
    cases h; exact State.readV_setV_of_ne _ _ fun hx => by subst hx; simpa using hdest nn 0
  case ldReg x y | orReg x y | andReg x y | xorReg x y =>
    cases h; exact State.readV_setV_of_ne _ _ fun hx => by subst hx; simpa using hdest 0 y
  case ldVxDT x => cases h; exact State.readV_setV_of_ne _ _ fun hx => hdt (by rw [hx])
  case ldVxK x =>
    cases h
    rcases s.chosenKey with _ | k
    · rfl
    · exact State.readV_setV_of_ne _ _ fun hx => hkey (by rw [hx])
  case ldVxMem x => cases h; exact State.readV_loadRegs_VF fun hx => hload (by rw [hx])
  case call n => exact State.readV_congr (congrArg State.v (execCall_frame h) :) VF
  case ret => exact State.readV_congr (congrArg State.v (execRet_frame h) :) VF
  case seImm | sneImm | seReg | sneReg | skp | sknp =>
    cases h; exact State.readV_congr (congrArg State.v (s.skipIf_frame _) :) VF
  all_goals cases h; rfl

end Flags

/-! ### The statements -/

/-- Settles O55: the frame of the execute phase, part by part, and of the step. -/
theorem eachPartHasItsWriters : Obligations.EachPartHasItsWriters := by
  unfold Obligations.EachPartHasItsWriters
  refine ⟨fun i s t h => ⟨exec_i h, fun hi => ?_, exec_display h, ?_, ?_⟩, fun s t h => ?_⟩
  · have hframe := exec_frame_of_ne_call_ret h hi
    exact ⟨(congrArg State.stack hframe :), (congrArg State.halted hframe :), (congrArg State.dueSteps hframe :)⟩
  · exact (congrArg State.accCpu (exec_frame h) :)
  · exact (congrArg State.accDelay (exec_frame h) :)
  · rcases h with h | ⟨i, h⟩
    · exact step_sameConfig h
    · exact exec_sameConfig h

/-- Settles O56: what the flag writers leave in VF, and the frame of the others. -/
theorem flagRegisterIsWrittenByTheListedInstructions : Obligations.FlagRegisterIsWrittenByTheListedInstructions := by
  unfold Obligations.FlagRegisterIsWrittenByTheListedInstructions
  exact fun i s t h => ⟨exec_writes_flag h, exec_keeps_VF h⟩

/-- Settles O57: the frame of the execute phase. -/
theorem otherInstructionsLeaveThePc : Obligations.OtherInstructionsLeaveThePc := by
  unfold Obligations.OtherInstructionsLeaveThePc
  exact fun i s t => exec_pc

end Sys2Proof.Machine
end

section
/-! SUPPORT. What a step is in each of its cases, and with it the statements on the Step cycle (40_step.md R100 to R106;
60_exceptions.md R211 to R218, R225). -/

namespace Sys2Proof.Machine

/-- Settles O6: a due Step on a word that decodes, on the state the Step begins in. -/
theorem stepRunsTheDecodedInstruction : Obligations.StepRunsTheDecodedInstruction := by
  unfold Obligations.StepRunsTheDecodedInstruction
  intro s i hr hd hdec
  exact (step_of_due hr hd).trans (State.runStep_of_decode hdec)

/-- Settles O7: a due Step on a word of no row, which the decoder rejects. -/
theorem unknownWordHaltsTheMachine : Obligations.UnknownWordHaltsTheMachine := by
  unfold Obligations.UnknownWordHaltsTheMachine
  intro s hr hd hrow
  exact (step_of_due hr hd).trans (State.runStep_of_error (decode_of_no_row hrow))

/-- A running machine has a successor: the start of an Update, or what its due Step leaves (R106, R225). -/
theorem step_answers {s : State} (hr : s.halted = none) : ∃ t, step s = .next t := by
  by_cases hd : s.dueSteps = 0
  · exact ⟨_, step_of_idle hr hd⟩
  · rw [step_of_due hr hd]
    exact s.runStep_answers

/-- Settles O8: a running machine answers, and a halted one faults with its condition. -/
theorem onlyAHaltedMachineStops : Obligations.OnlyAHaltedMachineStops := by
  unfold Obligations.OnlyAHaltedMachineStops
  refine fun s => ⟨⟨?_, step_answers⟩, fun c => step_halted⟩
  rintro ⟨t, ht⟩
  exact (step_cases ht).1

/-- Settles O9: the elapsed time is the host's next answer. -/
theorem noDueStepBeginsTheNextUpdate : Obligations.NoDueStepBeginsTheNextUpdate := by
  unfold Obligations.NoDueStepBeginsTheNextUpdate
  exact fun s hr hd => ⟨hostDelta s.inputCount, hostDelta_nonneg _, step_of_idle hr hd⟩

end Sys2Proof.Machine
end

section
/-! SUPPORT. A clock's due ticks over many Updates; Update's loop as a run of steps, and with them the statements on
Update (60_exceptions.md R223 to R228). -/

namespace Sys2Proof.Machine

/-! ### The long run of a clock (R223, R224, R227) -/

/-- One Update of a clock of frequency `f`: the ticks due so far, and the remainder carried. -/
def advanceClock (f : Nat) (p : Nat × Rat) (delta : Rat) : Nat × Rat :=
  (p.1 + (dueTicks p.2 delta f).1, (dueTicks p.2 delta f).2)

/-- No time is lost: the ticks due and the remainder, which stays below one tick, add up to the time elapsed. -/
theorem foldl_advanceClock {f : Nat} (hf : 1 ≤ f) (deltas : List Rat) (hdeltas : ∀ d ∈ deltas, 0 ≤ d) (p : Nat × Rat)
    (hp : 0 ≤ p.2 ∧ p.2 * (f : Rat) < 1) :
    let q := deltas.foldl (advanceClock f) p
    (q.1 : Rat) / f + q.2 = (p.1 : Rat) / f + p.2 + deltas.sum ∧ 0 ≤ q.2 ∧ q.2 * (f : Rat) < 1 := by
  induction deltas generalizing p with
  | nil => exact ⟨by simp, hp⟩
  | cons d rest ih =>
    rw [List.forall_mem_cons] at hdeltas
    obtain ⟨hd, hrest⟩ := hdeltas
    obtain ⟨hsum, hbounds⟩ := dueTicks_spec hp.1 hd hf
    obtain ⟨htotal, hq⟩ := ih hrest (advanceClock f p d) hbounds
    refine ⟨?_, hq⟩
    rw [List.foldl_cons, htotal, List.sum_cons]
    simp only [advanceClock, Nat.cast_add, add_div]
    linarith

/-- Settles O44: the ticks due are the whole part of the time in ticks, since the remainder is below one tick. -/
theorem longRunRateIsExact : Obligations.LongRunRateIsExact := by
  unfold Obligations.LongRunRateIsExact
  intro f deltas hf hdeltas
  obtain ⟨hsum, hnonneg, hlt⟩ := foldl_advanceClock hf deltas hdeltas (0, 0) (by simp)
  change (deltas.foldl (advanceClock f) (0, 0)).1 = _
  generalize deltas.foldl (advanceClock f) (0, 0) = q at hsum hnonneg hlt
  have hf' : (f : Rat) ≠ 0 := by exact_mod_cast Nat.one_le_iff_ne_zero.1 hf
  have hticks : deltas.sum * (f : Rat) = q.1 + q.2 * f := by
    rw [show deltas.sum = q.1 / f + q.2 by simpa using hsum.symm, add_mul, div_mul_cancel₀ _ hf']
  have hfloor : (deltas.sum * (f : Rat)).floor = q.1 := by
    refine (Int.floor_eq_iff (a := deltas.sum * (f : Rat))).2 ⟨?_, ?_⟩ <;> rw [hticks, Int.cast_natCast]
    · exact le_add_of_nonneg_right (mul_nonneg hnonneg (Nat.cast_nonneg f))
    · exact (add_lt_add_iff_left _).2 hlt
  rw [hfloor, Int.toNat_natCast]

/-! ### The loop of an Update (R225) -/

section RunDue
variable {s t : State}

/-- A running machine's loop runs one Step and goes on from what that leaves. -/
theorem State.runDue_of_running (hr : s.halted = none) (h : s.runStep = .next t) (n : Nat) :
    s.runDue (n + 1) = t.runDue n := by
  simp [State.runDue, hr, h]

/-- The loop answers a state, as each of its Steps does. -/
theorem State.runDue_answers (s : State) (n : Nat) : ∃ t, s.runDue n = .next t := by
  induction n generalizing s with
  | zero => exact ⟨s, rfl⟩
  | succ n ih =>
    rcases hh : s.halted with _ | c
    · obtain ⟨u, hu⟩ := s.runStep_answers
      rw [State.runDue_of_running hh hu]
      exact ih u
    · exact ⟨s, State.runDue_halted hh _⟩

/-- A Step of a running machine takes one due Step, and a fatal condition takes all that are left (R218). -/
theorem State.runStep_due (hr : s.halted = none) (h : s.runStep = .next t) :
    (t.halted = none → t.dueSteps = s.dueSteps - 1) ∧ t.HaltedIdle := by
  have hraise (u : State) (c : Condition) : ((u.raise c).halted = none → (u.raise c).dueSteps = s.dueSteps - 1) ∧
      (u.raise c).HaltedIdle := ⟨nofun, fun _ => rfl⟩
  rcases hdec : decode s.fetchWord with e | i
  · cases (State.runStep_of_error hdec).symm.trans h
    exact hraise _ _
  · rw [State.runStep_of_decode hdec] at h
    rcases exec_goes_on_or_raises h with ⟨hhalted, hdue⟩ | ⟨c, rfl⟩
    · have ht : t.halted = none := hhalted.trans hr
      exact ⟨fun _ => hdue, fun hsome => by simp [ht] at hsome⟩
    · exact hraise _ _

/-- The machine's run begins with one step. -/
theorem core_run_succ (h : step s = .next t) (k : Nat) : Host.Core.run core (k + 1) s = Host.Core.run core k t := by
  have hcore : core.step s = .next t := h
  simp only [Host.Core.run, hcore]

/-- The loop over all due Steps is a run of the machine: of as many steps, unless a fatal condition ends it early. -/
theorem State.runDue_isRun (n : Nat) (hdue : s.halted = none → s.dueSteps = n) (hidle : s.HaltedIdle)
    (h : s.runDue n = .next t) :
    ∃ k ≤ n, Host.Core.run core k s = .next t ∧ t.dueSteps = 0 ∧ (t.halted = none → k = n) := by
  rcases hh : s.halted with _ | c
  · induction n generalizing s with
    | zero => cases h; exact ⟨0, le_rfl, rfl, hdue hh, fun _ => rfl⟩
    | succ n ih =>
      obtain ⟨u, hu⟩ := s.runStep_answers
      obtain ⟨hdue', hidle'⟩ := State.runStep_due hh hu
      have hstep : step s = .next u := by rw [step_of_due hh (by rw [hdue hh]; exact n.succ_ne_zero), hu]
      have hn : u.halted = none → u.dueSteps = n := fun hr => by rw [hdue' hr, hdue hh, Nat.add_sub_cancel]
      rw [State.runDue_of_running hh hu] at h
      rcases hu' : u.halted with _ | c
      · obtain ⟨k, hk, hrun, hzero, hall⟩ := ih hn hidle' h hu'
        exact ⟨k + 1, Nat.succ_le_succ hk, (core_run_succ hstep k).trans hrun, hzero, fun hr => by rw [hall hr]⟩
      · rw [State.runDue_halted hu'] at h
        cases h
        exact ⟨1, Nat.le_add_left 1 n, core_run_succ hstep 0, hidle' (by rw [hu']; rfl), fun hr => by simp [hr] at hu'⟩
  · rw [State.runDue_halted hh] at h
    cases h
    exact ⟨0, n.zero_le, rfl, hidle (by rw [hh]; rfl), fun hr => by simp [hr] at hh⟩

/-- What a whole Update leaves is reached by a run of the machine from the start of the Update. -/
theorem State.hostUpdate_isRun {delta : Rat} (hr : s.halted = none) (h : s.hostUpdate delta = .next t) :
    ∃ k ≤ (dueTicks s.accCpu delta s.cpuHz).1,
      Host.Core.run core k (s.beginUpdate delta) = .next t ∧ t.dueSteps = 0 ∧
        (t.halted = none → k = (dueTicks s.accCpu delta s.cpuHz).1) := by
  obtain ⟨-, -, ⟨hhalted, -⟩ | ⟨-, hloop⟩⟩ := State.hostUpdate_eq_next.1 h
  · exact absurd hr hhalted
  · exact State.runDue_isRun (s := s.beginUpdate delta) _ (fun _ => rfl)
      (fun hsome => by simp [hr] at hsome) hloop

end RunDue

/-- Settles O45: the guards of Update, and the loop, which answers. -/
theorem updateCompletesOrDoesNothing : Obligations.UpdateCompletesOrDoesNothing := by
  unfold Obligations.UpdateCompletesOrDoesNothing
  refine fun s delta => ⟨fun hd => if_pos hd, fun hd hneg => ?_, fun hd hpos hh => ?_, fun hd hpos hh => ?_⟩
  · rw [State.hostUpdate, if_neg (not_not.2 hd), if_pos hneg]
  · exact State.hostUpdate_eq_next.2 ⟨hd, hpos, .inl ⟨hh, rfl⟩⟩
  · obtain ⟨t, ht⟩ := (s.beginUpdate delta).runDue_answers (s.beginUpdate delta).dueSteps
    exact ⟨t, State.hostUpdate_eq_next.2 ⟨hd, hpos, .inr ⟨hh, ht⟩⟩⟩

/-- Settles O46: the loop of Update as a run of the machine. -/
theorem updateIsARunOfSteps : Obligations.UpdateIsARunOfSteps := by
  unfold Obligations.UpdateIsARunOfSteps
  exact fun s t delta _ hr h => State.hostUpdate_isRun hr h

end Sys2Proof.Machine
end

section
/-! SUPPORT. The invariant, part by part, under the operations of a Step, of an Update and of Reset, and with it the
statements on the invariant (10_state.md R24, R26, R28, R30, R34; 70_reset_and_hazards.md R250 to R254). -/

namespace Sys2Proof.Machine

/-! ### The invariant under each operation around the execute phase -/

section Operations
variable {s : State}

/-- A write of `pc` keeps the addresses in range, since it stores its target mod 4096 (R24). -/
theorem State.AddressesInRange.setPc (h : ∀ r ∈ s.stack, r.toNat < memSize) (target : Nat) :
    (s.setPc target).AddressesInRange :=
  ⟨s.setPc_inRange target, h⟩

theorem State.AddressesInRange.skipIf (h : s.AddressesInRange) (c : Bool) : (s.skipIf c).AddressesInRange := by
  cases c
  · exact h
  · exact .setPc h.2 _

/-- A fatal condition leaves no Step due, and nothing else of it is under the invariant (R215, R218). -/
theorem State.Inv.raise (h : s.Inv) (c : Condition) : (s.raise c).Inv := by
  obtain ⟨haddr, hlimit, hmem, hdisplay, hclocks, hparams, -⟩ := h
  exact ⟨haddr, hlimit, hmem, hdisplay, hclocks, hparams, fun _ => rfl⟩

/-- The start of a Step (R100). -/
theorem State.Inv.beginStep (h : s.Inv) : s.beginStep.Inv := by
  obtain ⟨haddr, hlimit, hmem, hdisplay, hclocks, hparams, hidle⟩ := h
  refine ⟨.setPc (s := s.takeDue.pollInputs) haddr.2 _, hlimit, hmem, hdisplay, hclocks, hparams, fun hsome => ?_⟩
  exact congrArg (· - 1) (hidle hsome)

/-- The start of an Update on a running machine: each clock keeps less than one tick (R34, R223). -/
theorem State.Inv.beginUpdate (h : s.Inv) (hr : s.halted = none) {delta : Rat} (hd : 0 ≤ delta) :
    (s.beginUpdate delta).Inv := by
  obtain ⟨haddr, hlimit, hmem, hdisplay, ⟨hcpu, -, hdelay, -⟩, hparams, -⟩ := h
  obtain ⟨-, hcpu'⟩ := dueTicks_spec hcpu hd hparams.1
  obtain ⟨-, hdelay'⟩ := dueTicks_spec (f := delayHz) hdelay hd (by decide)
  exact ⟨haddr, hlimit, hmem, hdisplay, ⟨hcpu'.1, hcpu'.2, hdelay'.1, hdelay'.2⟩, hparams,
    fun hsome => by simp [hr] at hsome⟩

/-- What Reset leaves on an accepted launch meets the invariant, whatever there was before (R250, R252). -/
theorem State.afterReset_inv {rom : List Byte} {legacy wrap : Bool} {hz : Nat}
    (h : launchRefusal s.width s.height s.stackLimit rom hz = none) : (s.afterReset rom legacy wrap hz).Inv := by
  obtain ⟨hw, hh, hlimit, -, hhz⟩ := launchRefusal_eq_none.1 h
  have hstart : (BitVec.ofNat 16 programStart).toNat < memSize := by decide
  refine ⟨⟨hstart, nofun⟩, fun n _ => n.zero_le, s.mem.wf_afterReset rom, blankDisplay_shape _ _, ?_,
    ⟨hhz, hw, hh, hlimit⟩, nofun⟩
  refine ⟨le_rfl, ?_, le_rfl, ?_⟩ <;> exact (zero_mul _).trans_lt one_pos

end Operations

/-! ### The invariant under the execute phase -/

section Exec
variable {s t : State} {i : Instr}

/-- Every instruction that moves `pc` stores a target mod 4096, and a call pushes the in-range `pc` (R24, R28). -/
theorem exec_addressesInRange (h : exec i s = .next t) (hs : s.AddressesInRange) : t.AddressesInRange := by
  have hstack := hs.2
  cases i
  case call n =>
    rcases execCall_cases n s with ⟨-, h'⟩ | ⟨-, h'⟩ <;> cases h'.symm.trans h
    · exact .setPc (s := { s with stack := s.pc :: s.stack }) (List.forall_mem_cons.2 hs) _
    · exact hs
  case ret =>
    rcases execRet_cases s with ⟨ret, rest, hcons, h'⟩ | ⟨-, h'⟩ <;> cases h'.symm.trans h
    · rw [hcons, List.forall_mem_cons] at hstack
      exact .setPc (s := { s with stack := rest }) hstack.2 _
    · exact hs
  case ldVxK x =>
    cases h
    cases s.chosenKey
    · exact .setPc hstack _
    · exact hs
  case ldVxMem x => cases h; rw [s.loadRegs_frame]; exact hs
  case jp | jpV0 => cases h; exact .setPc hstack _
  case seImm | sneImm | seReg | sneReg | skp | sknp => cases h; exact hs.skipIf _
  all_goals cases h; exact hs

/-- A call pushes only below the limit (R26). -/
theorem exec_stackWithinLimit (h : exec i s = .next t) (hs : s.StackWithinLimit) : t.StackWithinLimit := by
  by_cases hi : ∀ n, i ≠ .call n ∧ i ≠ .ret
  · rw [exec_frame_of_ne_call_ret h hi]
    exact hs
  · cases i
    case call n =>
      rcases execCall_cases n s with ⟨hroom, h'⟩ | ⟨-, h'⟩ <;> cases h'.symm.trans h
      · intro n hn
        refine Nat.lt_of_le_of_ne (hs n hn) fun heq => hroom ?_
        rw [heq]
        exact hn
      · exact hs
    case ret =>
      rcases execRet_cases s with ⟨ret, rest, hcons, h'⟩ | ⟨-, h'⟩ <;> cases h'.symm.trans h
      · intro n hn
        have hlength := hs n hn
        rw [hcons] at hlength
        exact Nat.le_of_succ_le hlength
      · exact hs
    all_goals exact absurd (by simp) hi

/-- FX33 and FX55 write memory byte by byte, and each write keeps the canonical form. -/
theorem exec_mem_wf (h : exec i s = .next t) (hs : s.mem.wf) : t.mem.wf := by
  by_cases hi : ∀ x, i ≠ .ldB x ∧ i ≠ .ldMemVx x
  · rw [exec_mem h hi]
    exact hs
  · cases i
    case ldB x => cases h; exact Memory.wf_writeBytes hs _ _
    case ldMemVx x => cases h; exact State.wf_dumpRegs hs _
    all_goals exact absurd (by simp) hi

/-- 00E0 blanks the whole surface, and a draw flips pixels in place (R30). -/
theorem exec_displayShaped (h : exec i s = .next t) (hs : s.DisplayShaped) : t.DisplayShaped := by
  have hframe := exec_frame h
  have hw : t.width = s.width := (congrArg State.width hframe :)
  have hh : t.height = s.height := (congrArg State.height hframe :)
  unfold State.DisplayShaped
  rw [hw, hh]
  by_cases hi : ∀ x y n, i ≠ .cls ∧ i ≠ .drw x y n
  · rw [exec_display h hi]
    exact hs
  · cases i
    case cls => cases h; exact blankDisplay_shape _ _
    case drw x y n => cases h; exact State.drawSprite_shape hs _ _ _
    all_goals exact absurd (by simp) hi

/-- An instruction that raises a condition leaves no Step due, and any other leaves halt status and count alone. -/
theorem exec_haltedIdle (h : exec i s = .next t) (hs : s.HaltedIdle) : t.HaltedIdle := by
  rcases exec_goes_on_or_raises h with ⟨hhalted, hdue⟩ | ⟨c, rfl⟩
  · unfold State.HaltedIdle
    rw [hhalted, hdue]
    exact hs
  · exact fun _ => rfl

theorem exec_inv (h : exec i s = .next t) (hs : s.Inv) : t.Inv := by
  obtain ⟨haddr, hlimit, hmem, hdisplay, hclocks, hparams, hidle⟩ := hs
  refine ⟨exec_addressesInRange h haddr, exec_stackWithinLimit h hlimit, exec_mem_wf h hmem,
    exec_displayShaped h hdisplay, ?_, ?_, exec_haltedIdle h hidle⟩ <;> rw [exec_frame h]
  · exact hclocks
  · exact hparams

end Exec

/-! ### The invariant along runs of the machine and acts of the host -/

section Runs
variable {s t : State}

theorem step_inv (h : step s = .next t) (hs : s.Inv) : t.Inv := by
  obtain ⟨hr, ⟨-, rfl⟩ | ⟨-, i, -, hexec⟩ | ⟨-, -, rfl⟩⟩ := step_cases h
  · exact State.Inv.beginUpdate (s := { s with inputCount := s.inputCount + 1 }) hs hr (hostDelta_nonneg _)
  · exact exec_inv hexec hs.beginStep
  · exact hs.beginStep.raise _

theorem core_run_inv (k : Nat) (h : Host.Core.run core k s = .next t) (hs : s.Inv) : t.Inv := by
  induction k generalizing s with
  | zero => cases h; exact hs
  | succ k ih =>
    rcases hh : s.halted with _ | c
    · obtain ⟨u, hu⟩ := step_answers hh
      rw [core_run_succ hu] at h
      exact ih h (step_inv hu hs)
    · have hstop : core.step s = .fault (.halted c) := step_halted hh
      simp [Host.Core.run, hstop] at h

theorem State.hostReset_inv {rom : List Byte} {legacy wrap : Bool} {hz : Nat}
    (h : s.hostReset rom legacy wrap hz = .next t) : t.Inv := by
  obtain ⟨-, haccepted, rfl⟩ := State.hostReset_eq_next.1 h
  exact State.afterReset_inv haccepted

/-- An Update of a running machine is a run of steps from its start, and one of a halted machine changes nothing. -/
theorem State.hostUpdate_inv {delta : Rat} (h : s.hostUpdate delta = .next t) (hs : s.Inv) : t.Inv := by
  obtain ⟨-, hpos, ⟨-, rfl⟩ | ⟨hr, -⟩⟩ := State.hostUpdate_eq_next.1 h
  · exact hs
  · obtain ⟨k, -, hrun, -⟩ := State.hostUpdate_isRun hr h
    exact core_run_inv k hrun (hs.beginUpdate hr hpos)

end Runs

/-! ### The machine of `State.reset` (R37, R250) -/

/-- Reset with the defaults and an empty ROM makes `State.reset` of itself. -/
theorem State.reset_hostReset :
    State.reset.hostReset [] defaultLegacyShift defaultWrapEdges 500 = .next State.reset :=
  State.hostReset_eq_next.2 ⟨rfl, rfl, rfl⟩

/-! ### The statements -/

/-- Settles O51: the start of an Update, the execute phase and the unknown word, each part of the invariant by itself. -/
theorem everyStepKeepsTheInvariant : Obligations.EveryStepKeepsTheInvariant := by
  unfold Obligations.EveryStepKeepsTheInvariant
  exact fun s t hs h => step_inv h hs

/-- Settles O53: what Reset leaves, and an Update as a run of steps that keep the invariant. -/
theorem hostActsKeepTheInvariant : Obligations.HostActsKeepTheInvariant := by
  unfold Obligations.HostActsKeepTheInvariant
  refine ⟨fun font w h limit rom legacy wrap hz t hbuild => ?_,
    fun s t hs => ⟨fun rom legacy wrap hz => State.hostReset_inv, fun delta h => State.hostUpdate_inv h hs⟩⟩
  obtain ⟨-, haccepted, rfl⟩ := State.hostReset_eq_next.1 hbuild
  exact ⟨State.afterReset_inv haccepted, Memory.afterReset_font _ rom, rfl, rfl, rfl⟩

/-- Settles O49: building with the defaults and resetting give the same fields as `State.reset`. -/
theorem resetStateIsAFreshMachine : Obligations.ResetStateIsAFreshMachine := by
  unfold Obligations.ResetStateIsAFreshMachine
  exact ⟨State.hostReset_eq_next.2 ⟨rfl, rfl, rfl⟩, State.reset_hostReset, rfl, rfl, rfl, rfl, rfl⟩

/-- Settles O50: `State.reset` is what a Reset leaves, and its empty trace shows the blank picture. -/
theorem invariantHoldsAtReset : Obligations.InvariantHoldsAtReset := by
  unfold Obligations.InvariantHoldsAtReset
  exact ⟨State.hostReset_inv State.reset_hostReset, rfl⟩

end Sys2Proof.Machine
end

section
/-! SUPPORT. Why Reset refuses, and the memory, registers and display it leaves, and with them the statement on Reset
(70_reset_and_hazards.md R250 to R256; 00_scope.md R8). -/

namespace Sys2Proof.Machine

/-! ### Memory after Reset (R250, R252) -/

section ReadAfterReset
variable (m : Memory) {rom : List Byte}

theorem Memory.background_of_ge (font : Vector Byte 80) {a : Nat} (h : 80 ≤ a) : Memory.background font a = 0 :=
  dif_neg (Nat.not_lt.2 h)

/-- Byte k of a ROM that fits stands at 0x200 + k. -/
theorem Memory.read_afterReset_rom (hrom : rom.length ≤ romRoom) {k : Nat} (hk : k < rom.length) :
    (m.afterReset rom).read (programStart + k) = rom[k] :=
  Memory.read_writeBytes_inside _ programStart k rom hk (hrom.trans (by decide))

/-- Above a ROM that fits, memory is zero. -/
theorem Memory.read_afterReset_above (hrom : rom.length ≤ romRoom) {a : Nat} (ha : programStart + rom.length ≤ a)
    (hlt : a < memSize) : (m.afterReset rom).read a = 0 := by
  have houtside : ∀ k < rom.length, a % memSize ≠ (programStart + k) % memSize := by
    simp only [romRoom, programStart, memSize] at *
    omega
  rw [Memory.afterReset, Memory.read_writeBytes_outside _ _ _ _ houtside, Memory.read_empty, Nat.mod_eq_of_lt hlt]
  exact Memory.background_of_ge m.font (le_trans (by simp only [programStart]; omega) ha)

/-- Every byte after a Reset: the font, zeros, the ROM, zeros. -/
theorem Memory.read_afterReset (hrom : rom.length ≤ romRoom) {a : Nat} (ha : a < memSize) :
    (m.afterReset rom).read a =
      if h : a < 80 then m.font[a] else if programStart ≤ a then rom.getD (a - programStart) 0 else 0 := by
  by_cases hstart : programStart ≤ a
  · rw [dif_neg (Nat.not_lt.2 (le_trans (by decide) hstart)), if_pos hstart]
    obtain ⟨k, rfl⟩ := Nat.exists_eq_add_of_le hstart
    rw [Nat.add_sub_cancel_left]
    rcases Nat.lt_or_ge k rom.length with hk | hk
    · rw [m.read_afterReset_rom hrom hk, List.getD_eq_getElem _ _ hk]
    · rw [m.read_afterReset_above hrom (Nat.add_le_add_left hk _) ha, List.getD_eq_default _ _ hk]
  · rw [if_neg hstart]
    exact m.read_afterReset_of_lt hrom (Nat.not_le.1 hstart)

end ReadAfterReset

/-! ### Refusals (R8, R250, R252, R256) -/

section Refusals
variable {s : State} {rom : List Byte} {legacy wrap : Bool} {hz : Nat}

theorem State.hostReset_of_due (h : s.dueSteps ≠ 0) : s.hostReset rom legacy wrap hz = .refused .insideUpdate :=
  if_pos h

theorem State.hostReset_of_refusal (hd : s.dueSteps = 0) {r : Refusal}
    (h : launchRefusal s.width s.height s.stackLimit rom hz = some r) :
    s.hostReset rom legacy wrap hz = .refused r := by
  simp [State.hostReset, hd, h]

variable {width height : Nat} {limit : Option Nat}

theorem launchRefusal_of_surface (h : width = 0 ∨ height = 0) :
    launchRefusal width height limit rom hz = some .surfaceEmpty :=
  if_pos h

theorem launchRefusal_of_limit (hw : 1 ≤ width) (hh : 1 ≤ height) (h : limit = some 0) :
    launchRefusal width height limit rom hz = some .stackLimitZero := by
  rw [launchRefusal, if_neg (by omega), if_pos h]

theorem launchRefusal_of_rom (hw : 1 ≤ width) (hh : 1 ≤ height) (hl : limit ≠ some 0) (h : romRoom < rom.length) :
    launchRefusal width height limit rom hz = some .romTooLong := by
  rw [launchRefusal, if_neg (by omega), if_neg hl, if_pos h]

theorem launchRefusal_of_clock (hw : 1 ≤ width) (hh : 1 ≤ height) (hl : limit ≠ some 0) (hrom : rom.length ≤ romRoom)
    (h : hz = 0) : launchRefusal width height limit rom hz = some .clockNotPositive := by
  rw [launchRefusal, if_neg (by omega), if_neg hl, if_neg (Nat.not_lt.2 hrom), if_pos h]

end Refusals

theorem State.readV_afterReset (s : State) (rom : List Byte) (legacy wrap : Bool) (hz : Nat) (r : RegIdx) :
    (s.afterReset rom legacy wrap hz).readV r = 0 :=
  Vector.getElem_replicate r.isLt

/-- Settles O47: each refusal by its guard, and an accepted Reset field by field. -/
theorem resetReplacesTheState : Obligations.ResetReplacesTheState := by
  unfold Obligations.ResetReplacesTheState
  intro s rom legacy wrap hz
  refine ⟨State.hostReset_of_due, fun hd hsurface => ?_, fun hd hw hh hlimit => ?_, ?_, ?_, ?_⟩
  · exact State.hostReset_of_refusal hd (launchRefusal_of_surface hsurface)
  · exact State.hostReset_of_refusal hd (launchRefusal_of_limit hw hh hlimit)
  · rintro ⟨hd, hw, hh, hlimit⟩ hrom
    exact State.hostReset_of_refusal hd (launchRefusal_of_rom hw hh hlimit hrom)
  · rintro ⟨hd, hw, hh, hlimit⟩ hrom hhz
    exact State.hostReset_of_refusal hd (launchRefusal_of_clock hw hh hlimit hrom hhz)
  · rintro ⟨hd, hw, hh, hlimit⟩ hrom hhz
    exact ⟨_, State.hostReset_eq_next.2 ⟨hd, launchRefusal_eq_none.2 ⟨hw, hh, hlimit, hrom, hhz⟩, rfl⟩,
      fun a ha => s.mem.read_afterReset hrom ha, s.mem.wf_afterReset rom, s.readV_afterReset rom legacy wrap hz,
      pixelAt_blankDisplay _ _, blankDisplay_shape _ _, rfl⟩

end Sys2Proof.Machine
end

section
/-! SUPPORT. What the display sink shows after the events of an instruction, and with it the statement that its picture
stays the display (44_display.md R171, R176; 60_exceptions.md R234). -/

namespace Sys2Proof.Machine

/-! ### Flips as the sink sees them -/

section Flip
variable (d : Draw) (px py : Nat)

@[simp] theorem Draw.flip_surface : (d.flip px py).surface = flipPixel d.surface px py := rfl
@[simp] theorem Draw.flip_collision : (d.flip px py).collision = (d.collision || pixelAt d.surface px py) := rfl
@[simp] theorem Draw.flip_events :
    (d.flip px py).events = d.events ++ [.displaySet px py (!pixelAt d.surface px py)] := rfl

end Flip

/-- The event of a flip, shown, is the flip: on the surface the new value is the opposite of the old one, and outside it
neither the event nor the flip does anything. -/
theorem showEvent_flip (d : List (List Bool)) (px py : Nat) :
    showEvent d (.displaySet px py (!pixelAt d px py)) = flipPixel d px py := by
  apply List.ext_getElem?
  intro y
  simp only [showEvent, flipPixel, List.getElem?_modify]
  by_cases hy : py = y
  · subst hy
    rcases hrow : d[py]? with _ | row
    · rfl
    · simp only [if_true, pixelAt_eq, hrow, Option.getD_some]
      refine congrArg some (List.ext_getElem? fun x => ?_)
      rw [List.getElem?_set, List.getElem?_modify]
      by_cases hx : px = x
      · subst hx
        by_cases hlt : px < row.length <;> simp [hlt]
      · simp [hx]
  · simp [hy]

/-- A draw's events, shown on the surface it began with, give the surface it leaves (R234). -/
theorem foldl_showEvent_flips (ps : List (Nat × Nat)) {start : List (List Bool)} {d : Draw}
    (hd : d.events.foldl showEvent start = d.surface) :
    (ps.foldl (fun d p => d.flip p.1 p.2) d).events.foldl showEvent start =
      (ps.foldl (fun d p => d.flip p.1 p.2) d).surface := by
  induction ps generalizing d with
  | nil => exact hd
  | cons p rest ih =>
    apply ih
    rw [Draw.flip_events, List.foldl_append, hd]
    exact showEvent_flip d.surface p.1 p.2

/-- Clearing a surface of H rows of W pixels blanks it (R171). -/
theorem showEvent_displayClear {d : List (List Bool)} {w h : Nat} (hd : d.length = h ∧ ∀ row ∈ d, row.length = w) :
    showEvent d .displayClear = blankDisplay w h := by
  rw [showEvent, blankDisplay, List.eq_replicate_iff, List.length_map]
  refine ⟨hd.1, List.forall_mem_map.2 fun row hrow => ?_⟩
  rw [List.map_const', hd.2 row hrow]

/-! ### The sink under the execute phase and the step -/

/-- From `s` to `t` the events emitted turn the picture of the one display into the picture of the other. -/
def ReportsDisplay (s t : State) : Prop :=
  ∃ events, t.trace = s.trace ++ events ∧ events.foldl showEvent s.display = t.display

/-- An operation that emits nothing and leaves the display alone. -/
theorem ReportsDisplay.of_silent {s t : State} (htrace : t.trace = s.trace) (hdisplay : t.display = s.display) :
    ReportsDisplay s t :=
  ⟨[], by rw [htrace, List.append_nil], hdisplay.symm⟩

theorem ReportsDisplay.raise (s : State) (c : Condition) : ReportsDisplay s (s.raise c) := ⟨[.fault c], rfl, rfl⟩

theorem State.SinkShowsDisplay.of_reports {s t : State} (hs : s.SinkShowsDisplay) (h : ReportsDisplay s t)
    (hw : t.width = s.width) (hh : t.height = s.height) : t.SinkShowsDisplay := by
  obtain ⟨events, htrace, hshow⟩ := h
  unfold State.SinkShowsDisplay showTrace at *
  rw [hw, hh, htrace, List.foldl_append, hs, hshow]

section Sink
variable {s t : State} {i : Instr}

/-- 00E0 and DXYN report what they do to the display, and no other event is for the display sink (R171, R176). -/
theorem exec_reportsDisplay (h : exec i s = .next t) (hs : s.DisplayShaped) : ReportsDisplay s t := by
  cases i
  case cls => cases h; exact ⟨[.displayClear], rfl, showEvent_displayClear hs⟩
  case drw x y n =>
    cases h
    refine ⟨(s.drawSprite (s.readV x).toNat (s.readV y).toNat n.toNat).events, rfl, ?_⟩
    change _ = (s.drawSprite (s.readV x).toNat (s.readV y).toNat n.toNat).surface
    rw [State.drawSprite_eq]
    exact foldl_showEvent_flips _ rfl
  case ldSTVx x => cases h; exact ⟨[.playTone _], rfl, rfl⟩
  case call n =>
    rcases execCall_cases n s with ⟨-, h'⟩ | ⟨-, h'⟩ <;> cases h'.symm.trans h
    · exact .of_silent rfl rfl
    · exact .raise s _
  case ret =>
    rcases execRet_cases s with ⟨_, _, -, h'⟩ | ⟨-, h'⟩ <;> cases h'.symm.trans h
    · exact .of_silent rfl rfl
    · exact .raise s _
  case ldVxK x => rw [execLdVxK_frame h]; exact .of_silent rfl rfl
  case ldVxMem x => cases h; rw [s.loadRegs_frame]; exact .of_silent rfl rfl
  case seImm | sneImm | seReg | sneReg | skp | sknp => cases h; rw [s.skipIf_frame]; exact .of_silent rfl rfl
  all_goals cases h; exact .of_silent rfl rfl

theorem step_reportsDisplay (h : step s = .next t) (hs : s.DisplayShaped) : ReportsDisplay s t := by
  obtain ⟨-, ⟨-, rfl⟩ | ⟨-, i, -, hexec⟩ | ⟨-, -, rfl⟩⟩ := step_cases h
  · exact .of_silent rfl rfl
  · exact exec_reportsDisplay (s := s.beginStep) hexec hs
  · exact .raise s.beginStep _

end Sink

/-- Settles O52: the events of one step turn the old display into the new one, and the picture's size is fixed. -/
theorem everyStepKeepsTheSinkInStep : Obligations.EveryStepKeepsTheSinkInStep := by
  unfold Obligations.EveryStepKeepsTheSinkInStep
  intro s t hinv hsink h
  obtain ⟨-, -, -, hdisplay, -⟩ := hinv
  obtain ⟨-, -, -, hw, hh, -⟩ := step_sameConfig h
  exact hsink.of_reports (step_reportsDisplay h hdisplay) hw hh

end Sys2Proof.Machine
end

section
/-! SUPPORT. A draw as a list of flips: the pixels it visits in the spec's arithmetic, what flips do to one pixel of a
shaped surface, when they collide and what they report, and with it the statements on DXYN (44_display.md R172 to R177). -/

namespace Sys2Proof.Machine

/-! ### The pixels of a sprite, in the spec's arithmetic (R172 to R174) -/

section CoveredPixels
variable (s : State) (ox oy : Nat)

/-- Where a cell lands: reducing the origin first makes no difference under the wrap policy (R173, R174). -/
theorem State.spriteTarget_eq (r c : Nat) : s.spriteTarget ox oy r c =
    if s.wrapEdges then some ((ox + c) % s.width, (oy + r) % s.height)
    else if ox + c < s.width ∧ oy + r < s.height then some (ox + c, oy + r) else none := by
  rw [State.spriteTarget, Nat.mod_add_mod, Nat.mod_add_mod]

/-- The pixels the model flips are the pixels under the 1 bits, in the same order. -/
theorem State.flippedPixels_eq (n : Nat) : s.flippedPixels ox oy n = s.coveredPixels ox oy n := by
  simp only [State.flippedPixels, spriteCells, List.filterMap_flatMap, List.filterMap_map, State.coveredPixels]
  refine congrArg (fun f => (List.range n).flatMap f) (funext fun r => List.filterMap_congr fun c _ => ?_)
  exact congrArg (fun o => if spriteBit (s.spriteRow r) c then o else none) (s.spriteTarget_eq ox oy r c)

/-- A pixel of the surface is covered as often as it is listed. -/
theorem State.count_coveredPixels (n : Nat) {px py : Nat} (hx : px < s.width) (hy : py < s.height) :
    (s.coveredPixels ox oy n).count (px, py) = s.coverCount ox oy n px py := by
  rw [State.coveredPixels, List.count_flatMap, State.coverCount]
  refine congrArg List.sum (List.map_congr_left fun r _ => ?_)
  rw [Function.comp_apply, List.count_filterMap, ← List.countP_eq_length_filter]
  refine List.countP_congr fun c _ => ?_
  rw [beq_iff_eq, decide_eq_true_eq, State.Covers]
  split_ifs with hbit hwrap hclip <;> simp [hbit]
  omega

/-- On a surface with a pixel, every covered pixel is on it. -/
theorem State.coveredPixels_onSurface (hw : 1 ≤ s.width) (hh : 1 ≤ s.height) (n : Nat) {p : Nat × Nat}
    (h : p ∈ s.coveredPixels ox oy n) : p.1 < s.width ∧ p.2 < s.height := by
  obtain ⟨r, -, hr⟩ := List.mem_flatMap.1 h
  obtain ⟨c, -, hc⟩ := List.mem_filterMap.1 hr
  split_ifs at hc with hbit hwrap hclip <;> cases hc
  · exact ⟨Nat.mod_lt _ hw, Nat.mod_lt _ hh⟩
  · exact hclip

end CoveredPixels

/-! ### Flips of a list of pixels -/

/-- The surface with each listed pixel flipped, as often as it is listed. -/
def flipAll (g : List (List Bool)) (ps : List (Nat × Nat)) : List (List Bool) :=
  ps.foldl (fun g p => flipPixel g p.1 p.2) g

/-- A draw with each listed pixel flipped, in order. -/
def Draw.flipEach (d : Draw) (ps : List (Nat × Nat)) : Draw := ps.foldl (fun d p => d.flip p.1 p.2) d

theorem Draw.flipEach_surface (d : Draw) (ps : List (Nat × Nat)) :
    (d.flipEach ps).surface = flipAll d.surface ps :=
  foldl_flip_surface ps d

theorem State.drawSprite_eq_flipEach (s : State) (ox oy n : Nat) : s.drawSprite ox oy n =
    Draw.flipEach { surface := s.display, collision := false, events := [] } (s.coveredPixels ox oy n) := by
  rw [State.drawSprite_eq, State.flippedPixels_eq, Draw.flipEach]

/-- A flip commutes with any flips. -/
theorem flipAll_flipPixel (g : List (List Bool)) (ps : List (Nat × Nat)) (px py : Nat) :
    flipAll (flipPixel g px py) ps = flipPixel (flipAll g ps) px py :=
  List.foldl_hom (fun g => flipPixel g px py) fun g p => flipPixel_comm g px py p.1 p.2

/-- The same flips a second time undo the first (R177). -/
theorem flipAll_flipAll (g : List (List Bool)) (ps : List (Nat × Nat)) : flipAll (flipAll g ps) ps = g := by
  induction ps generalizing g with
  | nil => rfl
  | cons p rest ih =>
    calc flipAll (flipAll (flipPixel g p.1 p.2) rest) (p :: rest)
        _ = flipAll (flipPixel (flipPixel (flipAll g rest) p.1 p.2) p.1 p.2) rest := by rw [flipAll_flipPixel g]; rfl
        _ = g := by rw [flipPixel_flipPixel, ih]

/-! ### One pixel of a shaped surface -/

/-- A surface of h rows of w pixels (R30). -/
def Shaped (w h : Nat) (g : List (List Bool)) : Prop := g.length = h ∧ ∀ row ∈ g, row.length = w

section Pixels
variable {w h : Nat} {g : List (List Bool)} (hg : Shaped w h g)
include hg

theorem Shaped.flip (px py : Nat) : Shaped w h (flipPixel g px py) :=
  ⟨(flipPixel_length g px py).trans hg.1, flipPixel_rows hg.2 px py⟩

/-- Outside the surface every pixel counts as off. -/
theorem Shaped.onSurface {x y : Nat} (hon : pixelAt g x y = true) : x < w ∧ y < h := by
  rw [pixelAt_eq] at hon
  rcases hrow : g[y]? with _ | row
  · simp [hrow] at hon
  · obtain ⟨hy, -⟩ := List.getElem?_eq_some_iff.1 hrow
    refine ⟨?_, hg.1 ▸ hy⟩
    by_contra hx
    rw [hrow, Option.getD_some, List.getElem?_eq_none (by rw [hg.2 row (List.mem_of_getElem? hrow)]; omega)] at hon
    simp at hon

/-- A flip is the exclusive or of its own pixel with 1. -/
theorem Shaped.pixelAt_flip (p : Nat × Nat) {x y : Nat} (hx : x < w) (hy : y < h) :
    pixelAt (flipPixel g p.1 p.2) x y = (pixelAt g x y ^^ decide (p = (x, y))) := by
  have hrow : ∃ row, g[y]? = some row ∧ x < row.length := by
    have hy' : y < g.length := hg.1.symm ▸ hy
    exact ⟨g[y], List.getElem?_eq_getElem hy', by rw [hg.2 _ (List.getElem_mem hy')]; exact hx⟩
  rw [pixelAt_flipPixel]
  by_cases heq : p = (x, y)
  · subst heq
    rw [if_pos ⟨rfl, hrow⟩]
    simp
  · rw [if_neg fun hand => heq hand.1.symm]
    simp [heq]

/-- Flips are the exclusive or of a pixel with the parity of its visits (R172). -/
theorem Shaped.pixelAt_flipAll (ps : List (Nat × Nat)) {x y : Nat} (hx : x < w) (hy : y < h) :
    pixelAt (flipAll g ps) x y = (pixelAt g x y ^^ decide (ps.count (x, y) % 2 = 1)) := by
  induction ps generalizing g with
  | nil => simp [flipAll]
  | cons p rest ih =>
    rw [flipAll, List.foldl_cons, ← flipAll, ih (hg.flip p.1 p.2), hg.pixelAt_flip p hx hy, List.count_cons]
    by_cases heq : p = (x, y)
    · rcases Nat.mod_two_eq_zero_or_one (rest.count (x, y)) with hpar | hpar <;> simp [heq, Nat.add_mod, hpar]
    · simp [heq]

/-- The visit that meets a pixel on: it was on and is visited, or it is visited twice (R175). -/
theorem Shaped.collision_iff (ps : List (Nat × Nat)) {d : Draw} (hd : d.surface = g) :
    (d.flipEach ps).collision = true ↔ d.collision = true ∨
      ∃ x y, x < w ∧ y < h ∧ (pixelAt g x y = true ∧ 1 ≤ ps.count (x, y) ∨ 2 ≤ ps.count (x, y)) := by
  induction ps generalizing g d with
  | nil => simp [Draw.flipEach]
  | cons p rest ih =>
    obtain ⟨px, py⟩ := p
    rw [Draw.flipEach, List.foldl_cons, ← Draw.flipEach, ih (hg.flip px py) (by rw [Draw.flip_surface, hd]),
      Draw.flip_collision, hd, Bool.or_eq_true, or_assoc]
    refine or_congr_right ⟨?_, ?_⟩
    · rintro (hon | ⟨x, y, hx, hy, hvisit⟩)
      · obtain ⟨hx, hy⟩ := hg.onSurface hon
        exact ⟨px, py, hx, hy, .inl ⟨hon, by simp⟩⟩
      · refine ⟨x, y, hx, hy, ?_⟩
        rw [hg.pixelAt_flip (px, py) hx hy] at hvisit
        rw [List.count_cons]
        by_cases heq : (px, py) = (x, y)
        · right
          simp only [heq, beq_self_eq_true, if_true]
          omega
        · simpa [heq] using hvisit
    · rintro ⟨x, y, hx, hy, hvisit⟩
      rw [List.count_cons] at hvisit
      by_cases heq : (px, py) = (x, y)
      · cases heq
        rcases hon : pixelAt g px py with _ | _
        · refine .inr ⟨px, py, hx, hy, .inl ⟨?_, ?_⟩⟩
          · rw [hg.pixelAt_flip (px, py) hx hy, hon]; simp
          · simpa [hon] using hvisit
        · exact .inl rfl
      · refine .inr ⟨x, y, hx, hy, ?_⟩
        rw [hg.pixelAt_flip (px, py) hx hy]
        simpa [heq] using hvisit

end Pixels

/-! ### The events of flips (R176) -/

/-- Each visit reports the opposite of what it finds, the visits before it done. -/
theorem Draw.flipEach_events (d : Draw) (ps : List (Nat × Nat)) : (d.flipEach ps).events =
    d.events ++ ps.mapIdx fun k p =>
      .displaySet p.1 p.2 (!pixelAt (flipAll d.surface (ps.take k)) p.1 p.2) := by
  induction ps generalizing d with
  | nil => simp [Draw.flipEach]
  | cons p rest ih =>
    rw [Draw.flipEach, List.foldl_cons, ← Draw.flipEach, ih, Draw.flip_events, List.mapIdx_cons, List.append_assoc]
    rfl

/-- Two lists zipped, the second made from the first by position. -/
theorem mapIdx_eq_zipWith {α β γ : Type} (f : α → β → γ) (g : Nat → α → β) (l : List α) :
    l.mapIdx (fun k a => f a (g k a)) = List.zipWith f l (l.mapIdx g) :=
  List.ext_getElem (by simp) (by simp)

/-- On the surface, the value a visit reports is the old one, flipped once for each visit up to and including it. -/
theorem Shaped.reported_value {w h : Nat} {g : List (List Bool)} (hg : Shaped w h g) {ps : List (Nat × Nat)} {k : Nat}
    (hk : k < ps.length) (hx : ps[k].1 < w) (hy : ps[k].2 < h) :
    (!pixelAt (flipAll g (ps.take k)) ps[k].1 ps[k].2) =
      (pixelAt g ps[k].1 ps[k].2 ^^ decide ((ps.take (k + 1)).count ps[k] % 2 = 1)) := by
  have hshape : Shaped w h (flipAll g (ps.take k)) := foldl_flip_shape _ hg
  have hvisit : flipAll g (ps.take (k + 1)) = flipPixel (flipAll g (ps.take k)) ps[k].1 ps[k].2 := by
    rw [← List.take_append_getElem hk, flipAll, List.foldl_concat]
    rfl
  rw [← hg.pixelAt_flipAll (ps.take (k + 1)) hx hy, hvisit, hshape.pixelAt_flip ps[k] hx hy]
  simp

/-! ### DXYN (R172 to R177) -/

section Drw
variable (x y : RegIdx) (n : Nibble) (s : State)

/-- The pixels DXYN visits, in order. -/
def State.drwPixels : List (Nat × Nat) := s.coveredPixels (s.readV x).toNat (s.readV y).toNat n.toNat

/-- What DXYN has done when its loop is over. -/
def State.drwResult : Draw :=
  Draw.flipEach { surface := s.display, collision := false, events := [] } (s.drwPixels x y n)

/-- DXYN writes the display, the events and VF from the flips of the pixels it visits. -/
theorem exec_drw_eq : exec (.drw x y n) s = .next (((s.setDisplay (s.drwResult x y n).surface).emit
    (s.drwResult x y n).events).setV VF (flagByte (s.drwResult x y n).collision)) := by
  rw [State.drwResult, State.drwPixels, ← State.drawSprite_eq_flipEach]
  rfl

/-- VF after DXYN, on a shaped surface (R175). -/
theorem State.drwResult_collision_iff (hs : s.DisplayShaped) :
    (s.drwResult x y n).collision = true ↔
      ∃ px py, px < s.width ∧ py < s.height ∧
        (pixelAt s.display px py = true ∧ 1 ≤ s.coverCount (s.readV x).toNat (s.readV y).toNat n.toNat px py ∨
          2 ≤ s.coverCount (s.readV x).toNat (s.readV y).toNat n.toNat px py) := by
  rw [State.drwResult, Shaped.collision_iff hs _ rfl, or_iff_right Bool.false_ne_true]
  refine exists_congr fun px => exists_congr fun py => and_congr_right fun hx => and_congr_right fun hy => ?_
  rw [State.drwPixels, s.count_coveredPixels _ _ _ hx hy]

theorem State.drwResult_surface : (s.drwResult x y n).surface = flipAll s.display (s.drwPixels x y n) :=
  Draw.flipEach_surface _ _

/-- The values the visits of DXYN leave, each the opposite of what it finds, the visits before it done. -/
def State.drwValues : List Bool :=
  (s.drwPixels x y n).mapIdx fun k p => !pixelAt (flipAll s.display ((s.drwPixels x y n).take k)) p.1 p.2

theorem State.drwResult_events : (s.drwResult x y n).events = (s.drwPixels x y n).mapIdx fun k p =>
    .displaySet p.1 p.2 (!pixelAt (flipAll s.display ((s.drwPixels x y n).take k)) p.1 p.2) :=
  (Draw.flipEach_events _ _).trans (List.nil_append _)

/-- On a legal surface the events are the statement's, with each pixel's new value (R176). -/
theorem State.drwResult_events_eq_drawEvents (hs : s.DisplayShaped) (hw : 1 ≤ s.width) (hh : 1 ≤ s.height) :
    (s.drwResult x y n).events = s.drawEvents (s.readV x).toNat (s.readV y).toNat n.toNat := by
  rw [State.drwResult_events, State.drawEvents, ← State.drwPixels]
  refine List.ext_getElem (by simp) fun k hk _ => ?_
  rw [List.length_mapIdx] at hk
  obtain ⟨hx, hy⟩ := s.coveredPixels_onSurface _ _ hw hh _ (List.getElem_mem hk)
  simp only [List.getElem_mapIdx]
  exact congrArg (Event.displaySet _ _) (Shaped.reported_value hs hk hx hy)

/-- A draw writes nothing that selects the pixels of the next one, with origin registers other than VF. -/
theorem State.drwPixels_after_drw (hx : x ≠ VF) (hy : y ≠ VF) (d : List (List Bool)) (es : List Event) (f : Byte) :
    (((s.setDisplay d).emit es).setV VF f).drwPixels x y n = s.drwPixels x y n := by
  rw [State.drwPixels, State.readV_setV_of_ne _ _ hx, State.readV_setV_of_ne _ _ hy]
  rfl

end Drw

/-! ### The statements -/

/-- Settles O32: the words of the row, the frame of the draw, and each pixel by the parity of its visits. -/
theorem drawXorsTheCoveredPixels : Obligations.DrawXorsTheCoveredPixels := by
  unfold Obligations.DrawXorsTheCoveredPixels
  refine ⟨encodedAs_drw, fun x y n s hs => ⟨_, exec_drw_eq x y n s, rfl, fun r hr => ?_, fun a => rfl,
    fun px py hx hy => ?_⟩⟩
  · exact State.readV_setV_of_ne _ _ hr
  · rw [← s.count_coveredPixels _ _ _ hx hy, ← State.drwPixels, ← Shaped.pixelAt_flipAll hs _ hx hy,
      ← State.drwResult_surface]
    rfl

/-- Settles O33: the visits that meet a pixel on. -/
theorem collisionFlagIsCumulative : Obligations.CollisionFlagIsCumulative := by
  unfold Obligations.CollisionFlagIsCumulative
  refine fun x y n s hs => ⟨_, exec_drw_eq x y n s, fun hmeet => ?_, fun hclear => ?_⟩ <;> rw [State.readV_setV_same]
  · rw [(s.drwResult_collision_iff x y n hs).2 hmeet]
    rfl
  · have hno : ¬ (s.drwResult x y n).collision = true := by
      rw [s.drwResult_collision_iff x y n hs]
      rintro ⟨px, py, hx, hy, hvisit⟩
      obtain ⟨hoff | hnone, hlt⟩ := hclear px py hx hy
      · simp only [hoff, Bool.false_eq_true, false_and, false_or] at hvisit
        omega
      · omega
    rw [Bool.not_eq_true] at hno
    rw [hno]
    rfl

/-- Settles O34: the second draw visits the same pixels, since the first writes nothing that selects them. -/
theorem drawingTwiceRestoresTheDisplay : Obligations.DrawingTwiceRestoresTheDisplay := by
  unfold Obligations.DrawingTwiceRestoresTheDisplay
  intro x y n s hx hy
  refine ⟨_, _, exec_drw_eq x y n s, exec_drw_eq x y n _, ?_⟩
  simp only [State.setV_display, State.emit_display, State.setDisplay_display, State.drwResult_surface,
    State.drwPixels_after_drw x y n s hx hy]
  exact flipAll_flipAll s.display (s.drwPixels x y n)

/-- Settles O35: the events of the flips, with the values the visits find, and on a shaped surface by their parity. -/
theorem drawReportsEachFlip : Obligations.DrawReportsEachFlip := by
  unfold Obligations.DrawReportsEachFlip
  refine fun x y n s => ⟨_, exec_drw_eq x y n s, ⟨s.drwValues x y n, List.length_mapIdx, ?_⟩, fun hs hw hh => ?_⟩
  · exact congrArg (s.trace ++ ·) ((s.drwResult_events x y n).trans (mapIdx_eq_zipWith _ _ _))
  · exact congrArg (s.trace ++ ·) (s.drwResult_events_eq_drawEvents x y n hs hw hh)

end Sys2Proof.Machine
end

section
/-! SUPPORT. The two writes of a flag-writing instruction by the cases of X and Y, and with them the statements on 8XY0 to
8XY7 and 8XYE (41_arith_logic.md R110 to R119). -/

namespace Sys2Proof.Machine

/-- Settles O11: each is one register write with its frame. -/
theorem copyAndBitwiseWriteOnlyTheDestination : Obligations.CopyAndBitwiseWriteOnlyTheDestination := by
  unfold Obligations.CopyAndBitwiseWriteOnlyTheDestination
  exact fun x y s => ⟨⟨_, rfl, s.writesOnly_setV x _⟩, ⟨_, rfl, s.writesOnly_setV x _⟩, ⟨_, rfl, s.writesOnly_setV x _⟩,
    ⟨_, rfl, s.writesOnly_setV x _⟩⟩

/-! ### The flag and the result of an 8-bit operation as the spec writes them -/

section Values
variable (a b : Byte)

theorem flagByte_decide (p : Prop) [Decidable p] : flagByte (decide p) = BitVec.ofNat 8 (if p then 1 else 0) := by
  by_cases hp : p <;> simp [flagByte, hp]

/-- A flag as a number. -/
theorem toNat_ofNat_ite (p : Prop) [Decidable p] :
    (BitVec.ofNat 8 (if p then 1 else 0)).toNat = if p then 1 else 0 := by
  split_ifs <;> rfl

theorem addFlag_eq : addFlag a b = BitVec.ofNat 8 (if 255 < a.toNat + b.toNat then 1 else 0) := flagByte_decide _

theorem subFlag_eq : subFlag a b = BitVec.ofNat 8 (if b.toNat < a.toNat then 1 else 0) := flagByte_decide _

theorem byte_sub_eq_ofNat : a - b = BitVec.ofNat 8 ((a.toNat + 256 - b.toNat) % 256) := by
  apply BitVec.eq_of_toNat_eq
  have := b.isLt
  simp only [BitVec.toNat_sub, BitVec.toNat_ofNat]
  omega

theorem shrFlag_eq : shrFlag a = BitVec.ofNat 8 (a.toNat % 2) := by
  revert a; decide

theorem shlFlag_eq : shlFlag a = BitVec.ofNat 8 (a.toNat / 128) := by
  revert a; decide

/-- A flag shifted right is 0. -/
theorem shrFlag_shr : shrFlag a >>> 1 = 0 := by
  revert a; decide

/-- A flag shifted left is twice the flag. -/
theorem shlFlag_shl : shlFlag a <<< 1 = BitVec.ofNat 8 (2 * (a.toNat / 128)) := by
  revert a; decide

theorem byte_shr_eq_ofNat : a >>> 1 = BitVec.ofNat 8 (a.toNat / 2) := by
  revert a; decide

theorem byte_shl_eq_ofNat : a <<< 1 = BitVec.ofNat 8 (2 * a.toNat % 256) := by
  revert a; decide

end Values

/-! ### The cases of X and Y (R110) -/

/-- With X = F the result overwrites the flag. -/
theorem WritesResultAndFlag.writesOnly {s t : State} {x : RegIdx} {b f : Byte} (h : WritesResultAndFlag s t x b f)
    (hx : x = VF) : WritesOnly s t VF b := by
  subst hx
  obtain ⟨hresult, -, hothers, hframe⟩ := h
  exact ⟨hresult, fun r hr => hothers r hr hr, hframe⟩

section Cases
variable (s : State) (x y : RegIdx)

/-- What the four cases of a flag-writing operation with result `op V[X] V[Y]` leave in `t`: the flag is the operand that
is VF. -/
def FlagOpCases (t : State) (f : Byte) (op : Byte → Byte → Byte) : Prop :=
  (x ≠ VF → y ≠ VF → WritesResultAndFlag s t x (op (s.readV x) (s.readV y)) f) ∧
  (x ≠ VF → y = VF → WritesResultAndFlag s t x (op (s.readV x) f) f) ∧
  (x = VF → y ≠ VF → WritesOnly s t VF (op f (s.readV y))) ∧
  (x = VF → y = VF → WritesOnly s t VF (op f f))

theorem State.flagThenResult_cases (f : Byte) (op : Byte → Byte → Byte) :
    FlagOpCases s x y (s.flagThenResult x f fun t => op (t.readV x) (t.readV y)) f op := by
  have h := s.writesResultAndFlag_flagThenResult x f fun t => op (t.readV x) (t.readV y)
  simp only [State.readV_setV] at h
  refine ⟨fun hx hy => ?_, fun hx hy => ?_, fun hx hy => ?_, fun hx hy => ?_⟩
  · rwa [if_neg hx, if_neg hy] at h
  · rwa [if_neg hx, if_pos hy] at h
  · rw [if_pos hx, if_neg hy] at h
    exact h.writesOnly hx
  · rw [if_pos hx, if_pos hy] at h
    exact h.writesOnly hx

/-- The four cases of a shift with source `src`: what is shifted is the flag when the source is VF. -/
theorem State.shiftWith_cases (flag shift : Byte → Byte) {src : RegIdx} (hsrc : s.shiftSource x y = src) :
    (x ≠ VF → src ≠ VF →
      WritesResultAndFlag s (s.shiftWith x y flag shift) x (shift (s.readV src)) (flag (s.readV src))) ∧
    (x ≠ VF → src = VF →
      WritesResultAndFlag s (s.shiftWith x y flag shift) x (shift (flag (s.readV src))) (flag (s.readV src))) ∧
    (x = VF → src ≠ VF → WritesOnly s (s.shiftWith x y flag shift) VF (shift (s.readV src))) ∧
    (x = VF → src = VF → WritesOnly s (s.shiftWith x y flag shift) VF (shift (flag (s.readV src)))) := by
  obtain ⟨-, h⟩ := s.writesResultAndFlag_flagThenResult x (flag (s.readV (s.shiftSource x y)))
    fun t => shift (t.readV (t.shiftSource x y))
  have hall := And.intro (s.readV_shiftWith_dest x y flag shift) h
  subst hsrc
  refine ⟨fun hx hy => ?_, fun hx hy => ?_, fun hx hy => ?_, fun hx hy => ?_⟩
  · rwa [if_neg hy] at hall
  · rwa [if_pos hy] at hall
  · rw [if_neg hy] at hall
    exact WritesResultAndFlag.writesOnly hall hx
  · rw [if_pos hy] at hall
    exact WritesResultAndFlag.writesOnly hall hx

end Cases

/-! ### The statements -/

/-- Settles O12: the cases of X and Y, with the sum and the carry as the spec writes them. -/
theorem addWithCarryOutCases : Obligations.AddWithCarryOutCases := by
  unfold Obligations.AddWithCarryOutCases
  intro x y s a b c
  have h := s.flagThenResult_cases x y (addFlag (s.readV x) (s.readV y)) (· + ·)
  generalize ht : s.flagThenResult x _ _ = t at h
  simp only [FlagOpCases, byte_add_eq_ofNat, addFlag_eq, toNat_ofNat_ite] at h
  obtain ⟨hnone, hy, hx, hboth⟩ := h
  refine ⟨t, congrArg Host.Outcome.next ht, hnone, hy, hx, ?_⟩
  have htwo : (c + c) % 256 = 2 * c := by
    have : c ≤ 1 := ite_le_one le_rfl zero_le_one
    omega
  rw [← htwo]
  exact hboth

/-- Settles O13: the cases of X and Y, with the difference and the flag as the spec writes them. -/
theorem subtractAndReverseSubtractCases : Obligations.SubtractAndReverseSubtractCases := by
  unfold Obligations.SubtractAndReverseSubtractCases
  intro x y s a b c d
  have hsub := s.flagThenResult_cases x y (subFlag (s.readV x) (s.readV y)) (· - ·)
  have hsubn := s.flagThenResult_cases x y (subFlag (s.readV y) (s.readV x)) (fun u v => v - u)
  generalize ht : s.flagThenResult x (subFlag (s.readV x) (s.readV y)) _ = t at hsub
  generalize hu : s.flagThenResult x (subFlag (s.readV y) (s.readV x)) _ = u at hsubn
  simp only [FlagOpCases, BitVec.sub_self] at hsub hsubn
  simp only [byte_sub_eq_ofNat, subFlag_eq, toNat_ofNat_ite] at hsub hsubn
  exact ⟨⟨t, congrArg Host.Outcome.next ht, hsub⟩, ⟨u, congrArg Host.Outcome.next hu, hsubn⟩⟩

/-- Settles O14: the cases of the destination and the source, which is Y in the legacy form and X in the modern one. -/
theorem shiftRightCases : Obligations.ShiftRightCases := by
  unfold Obligations.ShiftRightCases
  intro x y s a b
  have hcases := @State.shiftWith_cases s x y shrFlag (· >>> 1)
  have hexec := execShr_eq x y s
  generalize s.shiftWith x y shrFlag (· >>> 1) = t at hcases hexec
  -- first, or the flag under the shift is no longer one
  simp only [shrFlag_shr] at hcases
  simp only [byte_shr_eq_ofNat, shrFlag_eq] at hcases
  rcases hmode : s.legacyShift with _ | _
  · obtain ⟨hother, -, -, hVF⟩ := hcases (src := x) (by simp [State.shiftSource, hmode])
    exact ⟨t, hexec, nofun, nofun, nofun, nofun, fun _ hx => hother hx hx, fun _ hx => hVF hx hx⟩
  · obtain ⟨hnone, hy, hx, hboth⟩ := hcases (src := y) (by simp [State.shiftSource, hmode])
    exact ⟨t, hexec, fun _ => hnone, fun _ => hy, fun _ => hx, fun _ => hboth, nofun, nofun⟩

/-- Settles O15: as for the right shift, with the bit a left shift drops. -/
theorem shiftLeftCases : Obligations.ShiftLeftCases := by
  unfold Obligations.ShiftLeftCases
  intro x y s a b
  have hcases := @State.shiftWith_cases s x y shlFlag (· <<< 1)
  have hexec := execShl_eq x y s
  generalize s.shiftWith x y shlFlag (· <<< 1) = t at hcases hexec
  simp only [shlFlag_shl] at hcases
  simp only [byte_shl_eq_ofNat, shlFlag_eq] at hcases
  rcases hmode : s.legacyShift with _ | _
  · obtain ⟨hother, -, -, hVF⟩ := hcases (src := x) (by simp [State.shiftSource, hmode])
    exact ⟨t, hexec, nofun, nofun, nofun, nofun, fun _ hx => hother hx hx, fun _ hx => hVF hx hx⟩
  · obtain ⟨hnone, hy, hx, hboth⟩ := hcases (src := y) (by simp [State.shiftSource, hmode])
    exact ⟨t, hexec, fun _ => hnone, fun _ => hy, fun _ => hx, fun _ => hboth, nofun, nofun⟩

end Sys2Proof.Machine
end

section
/-! SUPPORT. Call and return as the statements write them, and with them the statements on control transfer
(42_control_flow.md R132 to R137; 60_exceptions.md R212, R213). -/

namespace Sys2Proof.Machine

/-! ### Call and return -/

section CallRet
variable {s : State} {nnn : Addr12}

/-- A call with room: the pre-advanced `pc` pushed, and the target, which needs no wrap (R136). -/
theorem exec_call_of_room (h : s.stackLimit ≠ some s.stack.length) :
    exec (.call nnn) s = .next { s with stack := s.pc :: s.stack, pc := nnn.setWidth 16 } :=
  (execCall_of_room h).trans (congrArg Host.Outcome.next (State.setPc_addr { s with stack := s.pc :: s.stack } nnn))

/-- An in-range address is what `pc` holds after a write of it. -/
theorem State.setPc_pc_of_lt (t : State) {w : Word} (h : w.toNat < memSize) : (t.setPc w.toNat).pc = w := by
  apply BitVec.eq_of_toNat_eq
  rw [State.setPc_toNat, Nat.mod_eq_of_lt h]

/-- A return with an in-range entry on top: `pc` and the stack, and nothing else (R137). -/
theorem exec_ret_of_inRange {ret : Word} {rest : List Word} (h : s.stack = ret :: rest) (hret : ret.toNat < memSize) :
    ∃ w, exec .ret s = .next w ∧ w.pc = ret ∧ w.stack = rest ∧ w = { s with pc := w.pc, stack := w.stack } :=
  ⟨_, execRet_of_cons h, State.setPc_pc_of_lt _ hret, rfl, rfl⟩

end CallRet

/-! ### The statements -/

/-- Settles O17: the words of the two rows, and the skip on each condition. -/
theorem skipOnTwoRegisters : Obligations.SkipOnTwoRegisters := by
  unfold Obligations.SkipOnTwoRegisters
  refine ⟨encodedAs_seReg, encodedAs_sneReg, fun x y n s => ⟨?_, ?_⟩⟩
  · exact congrArg Host.Outcome.next (s.skipIf_beq (s.readV x) (s.readV y))
  · exact congrArg Host.Outcome.next (s.skipIf_bne (s.readV x) (s.readV y))

/-- Settles O19: the words of the row, and the write of `pc` alone. -/
theorem jumpWithOffsetAddsV0 : Obligations.JumpWithOffsetAddsV0 := by
  unfold Obligations.JumpWithOffsetAddsV0
  exact ⟨encodedAs_jpV0, fun nnn s => congrArg Host.Outcome.next (s.setPc_eq_withPc _)⟩

/-- Settles O20: the words of the row, and a call with room and on a full stack. -/
theorem callPushesTheReturnAddress : Obligations.CallPushesTheReturnAddress := by
  unfold Obligations.CallPushesTheReturnAddress
  exact ⟨encodedAs_call, fun nnn s => ⟨exec_call_of_room, execCall_of_full⟩⟩

/-- Settles O21: the word of the row, a return with and without an entry, and one right after a call. -/
theorem returnPopsIntoThePc : Obligations.ReturnPopsIntoThePc := by
  unfold Obligations.ReturnPopsIntoThePc
  refine ⟨encodedAs_ret, fun s ret rest => execRet_of_cons, fun s h => ⟨_, execRet_of_nil h⟩,
    fun nnn s t hpc hroom h => ?_⟩
  cases (exec_call_of_room hroom).symm.trans h
  obtain ⟨u, hu, hpc', hstack, -⟩ := exec_ret_of_inRange
    (s := { s with stack := s.pc :: s.stack, pc := nnn.setWidth 16 }) rfl hpc
  exact ⟨u, hu, hpc', hstack⟩

/-- Settles O22: the return finds on top what the call pushed. -/
theorem returnComesBackToTheCall : Obligations.ReturnComesBackToTheCall := by
  unfold Obligations.ReturnComesBackToTheCall
  exact fun nnn s hpc hroom => ⟨_, exec_call_of_room hroom, fun u hu => exec_ret_of_inRange hu hpc⟩

/-- Settles O23: a due Step on 00EE, whose recorded address undoes the pre-advance. -/
theorem underflowRecordsTheFetchAddress : Obligations.UnderflowRecordsTheFetchAddress := by
  unfold Obligations.UnderflowRecordsTheFetchAddress
  intro s hr hd hpc hword hstack
  have hdec : decode s.fetchWord = .ok .ret := by rw [hword]; exact decode_encode .ret
  rw [step_of_due hr hd, State.runStep_of_decode hdec]
  refine (execRet_of_nil (s := s.beginStep) hstack).trans ?_
  rw [State.beginStep, State.fetchAddress_preAdvance s.takeDue.pollInputs hpc]
  rfl

end Sys2Proof.Machine
end

section
/-! SUPPORT. The statements on the random byte, I, the timers and the sound (43_load_index_memory.md R152, R157, R158;
45_timer_key_sound.md R190 to R192). -/

namespace Sys2Proof.Machine

/-- Settles O25: the words of the row, and one register write with its frame. -/
theorem randomByteIsMasked : Obligations.RandomByteIsMasked := by
  unfold Obligations.RandomByteIsMasked
  exact ⟨encodedAs_rnd, fun x nn s => ⟨_, rfl, s.writesOnly_setV x _⟩⟩

/-- Settles O29: the words of the row, and the write of I alone, the font standing at address 0. -/
theorem fontAddressIsFiveTimesTheByte : Obligations.FontAddressIsFiveTimesTheByte := by
  unfold Obligations.FontAddressIsFiveTimesTheByte
  refine ⟨encodedAs_ldF, fun x s => ?_⟩
  have haddr : fontBase + (s.readV x).toNat * glyphBytes = (s.readV x).toNat * 5 := Nat.zero_add _
  rw [← haddr]
  rfl

/-- Settles O30: the words of the row, the sum in I, and the carry written to VF last. -/
theorem addToIndexCarriesAtSixteenBits : Obligations.AddToIndexCarriesAtSixteenBits := by
  unfold Obligations.AddToIndexCarriesAtSixteenBits
  refine ⟨encodedAs_addI, fun x s => ⟨_, rfl, exec_addI_i (x := x) rfl, ?_, fun r hr => ?_, rfl⟩⟩
  · rw [State.setFlag_eq, State.readV_setV_same, indexFlag, flagByte]
    simp only [decide_eq_true_eq]
  · rw [State.setFlag_eq, State.readV_setV_of_ne _ _ hr, State.readV_setI]

/-- Settles O36: the words of the row, one register write with its frame, and what leaves DT alone. -/
theorem readDelayTimerHasNoSideEffect : Obligations.ReadDelayTimerHasNoSideEffect := by
  unfold Obligations.ReadDelayTimerHasNoSideEffect
  exact ⟨encodedAs_ldVxDT, fun x s => ⟨_, rfl, s.writesOnly_setV x _⟩, fun i s t => exec_dt⟩

/-- Settles O37: the words of the row, and the write of DT alone. -/
theorem writeDelayTimerSetsDt : Obligations.WriteDelayTimerSetsDt := by
  unfold Obligations.WriteDelayTimerSetsDt
  exact ⟨encodedAs_ldDTVx, fun x s => rfl⟩

/-- Settles O38: the words of the row, and one event of an exact quotient. -/
theorem toneIsOneEvent : Obligations.ToneIsOneEvent := by
  unfold Obligations.ToneIsOneEvent
  exact ⟨encodedAs_ldSTVx, fun x s => ⟨_, div_mul_cancel₀ _ (by decide), rfl⟩⟩

end Sys2Proof.Machine
end

section
/-! SUPPORT. What the key wait takes, and the level of a key, and with them the statements on the keys
(45_timer_key_sound.md R193 to R196). -/

namespace Sys2Proof.Machine

section KeyWait
variable (s : State) (x : RegIdx)

/-- With no key newly pressed there is none to take. -/
theorem State.chosenKey_eq_none (h : ∀ k < 16, s.keysNew.getLsbD k = false) : s.chosenKey = none := by
  rcases s.chosenKey_cases with ⟨hnone, -⟩ | ⟨k, -, hk⟩
  · exact hnone
  · obtain ⟨hlt, hnew⟩ := (s.mem_newKeys k).1 hk
    exact absurd hnew (by simp [h k hlt])

/-- A blocked key wait writes `pc` alone (R193). -/
theorem exec_ldVxK_of_none (h : s.chosenKey = none) : exec (.ldVxK x) s = .next s.rewind := by
  simp [exec, execLdVxK, h]

/-- A key wait that takes key k writes its code to V[X] (R193). -/
theorem exec_ldVxK_of_some {k : Nat} (h : s.chosenKey = some k) :
    exec (.ldVxK x) s = .next (s.setV x (BitVec.ofNat 8 k)) := by
  simp [exec, execLdVxK, h]

/-- The key wait is blocked on an empty set of new keys, or takes one of them. -/
theorem exec_ldVxK_cases :
    ((∀ k < 16, s.keysNew.getLsbD k = false) ∧ exec (.ldVxK x) s = .next s.rewind) ∨
    ∃ k < 16, s.keysNew.getLsbD k = true ∧ exec (.ldVxK x) s = .next (s.setV x (BitVec.ofNat 8 k)) := by
  rcases s.chosenKey_cases with ⟨hnone, hempty⟩ | ⟨k, hsome, hk⟩
  · refine .inl ⟨fun k hk => ?_, exec_ldVxK_of_none s x hnone⟩
    have hnot : ¬ k ∈ s.newKeys := by simp [hempty]
    simpa [s.mem_newKeys, hk] using hnot
  · obtain ⟨hlt, hnew⟩ := (s.mem_newKeys k).1 hk
    exact .inr ⟨k, hlt, hnew, exec_ldVxK_of_some s x hsome⟩

/-- The rewind undoes the pre-advance of an in-range `pc`, and leaves the state as it was. -/
theorem State.rewind_preAdvance_eq_self (h : s.pc.toNat < memSize) : s.preAdvance.rewind = s := by
  calc s.preAdvance.rewind
      _ = { s with pc := s.preAdvance.rewind.pc } := rfl
      _ = s := by rw [s.rewind_preAdvance h]

end KeyWait

/-- The level of a key is read at codes 0 to 15 (R196). -/
theorem State.keyHeld_iff (s : State) (code : Nat) :
    s.keyHeld code = true ↔ code < 16 ∧ s.keysHeld.getLsbD code = true :=
  ⟨fun h => ⟨BitVec.lt_of_getLsbD h, h⟩, fun h => h.2⟩

/-! ### The statements -/

/-- Settles O39: the words of the row, and the two cases of the key wait. -/
theorem keyWaitTakesANewKey : Obligations.KeyWaitTakesANewKey := by
  unfold Obligations.KeyWaitTakesANewKey
  refine ⟨encodedAs_ldVxK, fun x s => ⟨fun hnone => exec_ldVxK_of_none s x (s.chosenKey_eq_none hnone), ?_⟩⟩
  rintro ⟨j, hj, hnew⟩
  rcases exec_ldVxK_cases s x with ⟨hnone, -⟩ | ⟨k, hk, hnewk, hexec⟩
  · exact absurd hnew (by simp [hnone j hj])
  · exact ⟨k, _, hk, hnewk, hexec, s.writesOnly_setV x _⟩

/-- Settles O40: the rewind undoes the pre-advance, and a Step on the key wait in its two cases. -/
theorem keyWaitBlocksOrCompletes : Obligations.KeyWaitBlocksOrCompletes := by
  unfold Obligations.KeyWaitBlocksOrCompletes
  refine ⟨fun x s hpc hnew => ?_, fun x s hr hd hpc hdec => ?_⟩
  · have hnone : s.preAdvance.chosenKey = none := State.chosenKey_eq_none _ fun k _ => by simp [hnew]
    rw [exec_ldVxK_of_none _ x hnone, s.rewind_preAdvance_eq_self hpc]
  · rw [step_of_due hr hd, State.runStep_of_decode hdec]
    rcases exec_ldVxK_cases s.beginStep x with ⟨hnone, hexec⟩ | ⟨k, hk, hnew, hexec⟩
    · refine ⟨_, hexec, rfl, fun _ _ => rfl, .inl ⟨?_, ?_, rfl⟩⟩
      · exact BitVec.eq_of_getLsbD_eq fun k hk => (hnone k hk).trans (by simp)
      · exact (congrArg State.pc (s.takeDue.pollInputs.rewind_preAdvance_eq_self hpc) :)
    · exact ⟨_, hexec, rfl, fun r hne => State.readV_setV_of_ne _ _ hne,
        .inr ⟨k, hk, hnew, rfl, State.readV_setV_same _ _ _⟩⟩

/-- Settles O41: the words of the two rows, and the skip on each level. -/
theorem skipOnKeyLevel : Obligations.SkipOnKeyLevel := by
  unfold Obligations.SkipOnKeyLevel
  refine ⟨encodedAs_skp, encodedAs_sknp, fun x s => ⟨fun hheld => ?_, fun hheld => ?_⟩⟩
  · have hkey := (s.keyHeld_iff _).2 hheld
    exact ⟨by rw [exec, execSkp, hkey]; rfl, by rw [exec, execSknp, hkey]; rfl⟩
  · have hkey := Bool.eq_false_iff.2 (mt (s.keyHeld_iff _).1 hheld)
    exact ⟨by rw [exec, execSkp, hkey]; rfl, by rw [exec, execSknp, hkey]; rfl⟩

end Sys2Proof.Machine
end

section
/-! SUPPORT. The execute phase under other key answers and another edge policy, and with it the statements on who reads
them (40_step.md R107; 44_display.md R178). -/

namespace Sys2Proof.Machine

/-- `s` with other key answers, another choice among new keys and another edge policy. -/
def State.withInputs (s : State) (held new : BitVec 16) (pick : Nat) (wrap : Bool) : State :=
  { s with keysHeld := held, keysNew := new, keyPick := pick, wrapEdges := wrap }

section WithInputs
variable (s : State) (held new : BitVec 16) (pick : Nat) (wrap : Bool)

theorem State.skipIf_withInputs (c : Bool) :
    (s.withInputs held new pick wrap).skipIf c = (s.skipIf c).withInputs held new pick wrap := by
  cases c <;> rfl

theorem State.dumpRegs_withInputs (n : Nat) : (s.withInputs held new pick wrap).dumpRegs n = s.dumpRegs n := by
  induction n with
  | zero => rfl
  | succ n ih => rw [State.dumpRegs, ih]; rfl

theorem State.loadRegs_withInputs (n : Nat) :
    (s.withInputs held new pick wrap).loadRegs n = (s.loadRegs n).withInputs held new pick wrap := by
  induction n with
  | zero => rfl
  | succ n ih => rw [State.loadRegs, ih]; rfl

end WithInputs

section ExecWithInputs
variable {s t : State} {i : Instr} (held new : BitVec 16) (pick : Nat) (wrap : Bool)

theorem execCall_withInputs {nnn : Addr12} (h : execCall nnn s = .next t) :
    execCall nnn (s.withInputs held new pick wrap) = .next (t.withInputs held new pick wrap) := by
  rcases execCall_cases nnn s with ⟨hroom, hs⟩ | ⟨hfull, hs⟩ <;> cases hs.symm.trans h
  · exact execCall_of_room (s := s.withInputs held new pick wrap) hroom
  · exact execCall_of_full (s := s.withInputs held new pick wrap) hfull

theorem execRet_withInputs (h : execRet s = .next t) :
    execRet (s.withInputs held new pick wrap) = .next (t.withInputs held new pick wrap) := by
  rcases execRet_cases s with ⟨ret, rest, hstack, hs⟩ | ⟨hempty, hs⟩ <;> cases hs.symm.trans h
  · exact execRet_of_cons (s := s.withInputs held new pick wrap) hstack
  · exact execRet_of_nil (s := s.withInputs held new pick wrap) hempty

theorem execLdVxK_withInputs {x : RegIdx} (h : execLdVxK x s = .next t) :
    execLdVxK x (s.withInputs s.keysHeld s.keysNew s.keyPick wrap) =
      .next (t.withInputs s.keysHeld s.keysNew s.keyPick wrap) := by
  have hkey : (s.withInputs s.keysHeld s.keysNew s.keyPick wrap).chosenKey = s.chosenKey := rfl
  unfold execLdVxK at h ⊢
  rw [hkey]
  cases h
  cases s.chosenKey <;> rfl

/-- No instruction but DXYN reads the edge policy, none but FX0A, EX9E and EXA1 reads the key answers, and none writes
either. -/
theorem exec_withInputs (h : exec i s = .next t) (hdrw : wrap = s.wrapEdges ∨ ∀ x y n, i ≠ .drw x y n)
    (hkeys : (held = s.keysHeld ∧ new = s.keysNew ∧ pick = s.keyPick) ∨
      ∀ x, i ≠ .ldVxK x ∧ i ≠ .skp x ∧ i ≠ .sknp x) :
    exec i (s.withInputs held new pick wrap) = .next (t.withInputs held new pick wrap) := by
  cases i
  case drw x y n =>
    obtain rfl := hdrw.resolve_right fun hne => hne x y n rfl
    cases h; rfl
  case ldVxK x =>
    obtain ⟨rfl, rfl, rfl⟩ := hkeys.resolve_right fun hne => (hne x).1 rfl
    exact execLdVxK_withInputs wrap h
  case skp x | sknp x =>
    obtain ⟨rfl, rfl, rfl⟩ := hkeys.resolve_right fun hne => by simpa using hne x
    cases h; exact congrArg Host.Outcome.next (s.skipIf_withInputs _ _ _ wrap _)
  case call nnn => exact execCall_withInputs held new pick wrap h
  case ret => exact execRet_withInputs held new pick wrap h
  case ldMemVx x =>
    cases h
    exact congrArg (fun m => Host.Outcome.next ((s.withInputs held new pick wrap).setMem m))
      (s.dumpRegs_withInputs held new pick wrap _)
  case ldVxMem x => cases h; exact congrArg Host.Outcome.next (s.loadRegs_withInputs held new pick wrap _)
  case seImm | sneImm | seReg | sneReg =>
    cases h; exact congrArg Host.Outcome.next (s.skipIf_withInputs held new pick wrap _)
  all_goals cases h; rfl

/-- Other key answers alone. -/
theorem exec_withKeys (h : exec i s = .next t) (hkeys : ∀ x, i ≠ .ldVxK x ∧ i ≠ .skp x ∧ i ≠ .sknp x) :
    exec i { s with keysHeld := held, keysNew := new, keyPick := pick } =
      .next { t with keysHeld := held, keysNew := new, keyPick := pick } := by
  have hwrap : t.wrapEdges = s.wrapEdges := (congrArg State.wrapEdges (exec_frame h) :)
  refine (exec_withInputs held new pick s.wrapEdges h (.inl rfl) (.inr hkeys)).trans ?_
  rw [← hwrap]
  rfl

/-- Another edge policy alone. -/
theorem exec_withWrapEdges (h : exec i s = .next t) (hdrw : ∀ x y n, i ≠ .drw x y n) :
    exec i { s with wrapEdges := wrap } = .next { t with wrapEdges := wrap } := by
  have hframe := exec_frame h
  have hheld : t.keysHeld = s.keysHeld := (congrArg State.keysHeld hframe :)
  have hnew : t.keysNew = s.keysNew := (congrArg State.keysNew hframe :)
  have hpick : t.keyPick = s.keyPick := (congrArg State.keyPick hframe :)
  refine (exec_withInputs s.keysHeld s.keysNew s.keyPick wrap h (.inr hdrw) (.inl ⟨rfl, rfl, rfl⟩)).trans ?_
  rw [← hheld, ← hnew, ← hpick]
  rfl

end ExecWithInputs

/-! ### The statements -/

/-- Settles O42: the poll at the start of a Step, a Step on each outcome of the decoder, and the execute phase under
other answers. -/
theorem keysArePolledEachStepAndReadByThree : Obligations.KeysArePolledEachStepAndReadByThree := by
  unfold Obligations.KeysArePolledEachStepAndReadByThree
  refine ⟨fun s => ⟨rfl, rfl, rfl⟩, fun s hr hd => ⟨fun i hdec => ?_, fun e hdec => ?_⟩,
    fun i s t held new pick hkeys h => exec_withKeys held new pick h hkeys⟩
  · exact (step_of_due hr hd).trans (State.runStep_of_decode hdec)
  · exact ⟨_, (step_of_due hr hd).trans (State.runStep_of_error hdec)⟩

/-- Settles O59: Reset stores the value it is given, the execute phase commutes with changing it, and where a cell lands
under each value. -/
theorem wrapEdgesAffectsOnlyDraw : Obligations.WrapEdgesAffectsOnlyDraw := by
  unfold Obligations.WrapEdgesAffectsOnlyDraw
  refine ⟨fun s t rom legacy wrap hz h => ?_, fun i s t b h hdrw => exec_withWrapEdges b h hdrw,
    fun s ox oy r c => ⟨?_, ?_⟩⟩
  · obtain ⟨-, -, rfl⟩ := State.hostReset_eq_next.1 h
    rfl
  · exact (State.spriteTarget_eq _ ox oy r c).trans (if_pos rfl)
  · exact (State.spriteTarget_eq _ ox oy r c).trans (if_neg Bool.false_ne_true)

end Sys2Proof.Machine
end
